-- ==== Sys2Proof/Word.lean ====
section
/-! DEFINITION. The two word types of B2C: 64-bit words and bytes, both unsigned (spec/00_scope.md R7, R8, R9). -/

namespace Sys2Proof

/-- A 64-bit unsigned word (R7 "word width W"); `+` on it is addition modulo 2^64 (R9). -/
abbrev Word := BitVec 64

/-- An 8-bit value: a byte of a byte string, a command field, an 8-bit register. -/
abbrev Byte := BitVec 8

end Sys2Proof
end

