-- ==== Sys2Proof/Machine/Mixing.lean ====
section
/-! DEFINITION. The constants, the mixing function G and the round (spec/40_mixing.md R100 to R106; rotr: 00_scope.md
R10). -/

namespace Sys2Proof.Machine

/-- R10: rotation right of a 64-bit word, for `0 < n < 64`. -/
def rotr (w : Word) (n : Nat) : Word := (w >>> n) ||| (w <<< (64 - n))

/-- R101: the initialization vector. -/
def iv : Vector Word 8 :=
  #v[0x6A09E667F3BCC908, 0xBB67AE8584CAA73B, 0x3C6EF372FE94F82B, 0xA54FF53A5F1D36F1,
     0x510E527FADE682D1, 0x9B05688C2B3E6C1F, 0x1F83D9ABFB41BD6B, 0x5BE0CD19137E2179]

/-- R102: the permutation schedule `SIGMA[r][j]`. -/
def sigma : Vector (Vector (Fin 16) 16) 12 :=
  #v[#v[0, 1, 2, 3, 4, 5, 6, 7, 8, 9, 10, 11, 12, 13, 14, 15],
     #v[14, 10, 4, 8, 9, 15, 13, 6, 1, 12, 0, 2, 11, 7, 5, 3],
     #v[11, 8, 12, 0, 5, 2, 15, 13, 10, 14, 3, 6, 7, 1, 9, 4],
     #v[7, 9, 3, 1, 13, 12, 11, 14, 2, 6, 5, 10, 4, 0, 15, 8],
     #v[9, 0, 5, 7, 2, 4, 10, 15, 14, 1, 11, 12, 6, 8, 3, 13],
     #v[2, 12, 6, 10, 0, 11, 8, 3, 4, 13, 7, 5, 15, 14, 1, 9],
     #v[12, 5, 1, 15, 14, 13, 4, 10, 0, 7, 6, 3, 9, 2, 8, 11],
     #v[13, 11, 7, 14, 12, 1, 3, 9, 5, 0, 15, 4, 8, 6, 2, 10],
     #v[6, 15, 14, 9, 11, 3, 0, 8, 12, 2, 13, 7, 1, 4, 10, 5],
     #v[10, 2, 8, 4, 7, 6, 1, 5, 15, 11, 9, 14, 3, 12, 13, 0],
     #v[0, 1, 2, 3, 4, 5, 6, 7, 8, 9, 10, 11, 12, 13, 14, 15],
     #v[14, 10, 4, 8, 9, 15, 13, 6, 1, 12, 0, 2, 11, 7, 5, 3]]

/-- Four slot indices of the working vector (R103). -/
structure Slots where
  a : Fin 16
  b : Fin 16
  c : Fin 16
  d : Fin 16
  deriving DecidableEq, Repr

/-- R104: the slots of the eight applications of a round, four column and four diagonal. -/
def slots : Vector Slots 8 :=
  #v[⟨0, 4, 8, 12⟩, ⟨1, 5, 9, 13⟩, ⟨2, 6, 10, 14⟩, ⟨3, 7, 11, 15⟩,
     ⟨0, 5, 10, 15⟩, ⟨1, 6, 11, 12⟩, ⟨2, 7, 8, 13⟩, ⟨3, 4, 9, 14⟩]

/-- R103: `G(V, a, b, c, d, x, y)`, each line reading what the lines before it wrote. -/
def mixG (v : Vector Word 16) (q : Slots) (x y : Word) : Vector Word 16 :=
  let v := v.set q.a (v[q.a] + v[q.b] + x)
  let v := v.set q.d (rotr (v[q.d] ^^^ v[q.a]) 32)
  let v := v.set q.c (v[q.c] + v[q.d])
  let v := v.set q.b (rotr (v[q.b] ^^^ v[q.c]) 24)
  let v := v.set q.a (v[q.a] + v[q.b] + y)
  let v := v.set q.d (rotr (v[q.d] ^^^ v[q.a]) 16)
  let v := v.set q.c (v[q.c] + v[q.d])
  v.set q.b (rotr (v[q.b] ^^^ v[q.c]) 63)

/-- R105: application `i` of round `r` takes `x = M[SIGMA[r][2i]]`, `y = M[SIGMA[r][2i+1]]`. -/
def mixStep (m : Vector Word 16) (r : Fin 12) (v : Vector Word 16) (i : Fin 8) : Vector Word 16 :=
  mixG v slots[i] m[sigma[r][2 * i.val]] m[sigma[r][2 * i.val + 1]]

/-- R106: `ROUND(V, M, r)`, the eight applications in order. -/
def mixRound (m : Vector Word 16) (v : Vector Word 16) (r : Fin 12) : Vector Word 16 :=
  [0, 1, 2, 3, 4, 5, 6, 7].foldl (mixStep m r) v

end Sys2Proof.Machine
end

