-- ==== Sys2Proof/Syntax.lean ====
section
/-! DEFINITION. The transfer on the command port and the ten commands, one constructor per row of
spec/opcode_table.json (spec/30_encoding.md R80, R83). -/

namespace Sys2Proof

/-- R80: one command is one transfer carrying a 32-bit command word and a 64-bit data operand. -/
structure Transfer where
  cmd : BitVec 32
  data : Word
  deriving DecidableEq, Repr

/-- The commands of R83 with the operands each one uses. A command that ignores `DATA` carries none. -/
inductive Instr where
  /-- R190. -/
  | nop
  /-- R184, R87: `A` = output length, `B` = key length, each the full 8-bit field. -/
  | config (outlen keylen : Byte)
  /-- R186: key word index and its eight bytes. -/
  | loadKey (k : Fin 8) (data : Word)
  /-- R187: salt word index and the word. -/
  | setSalt (i : Fin 2) (data : Word)
  /-- R188: personalization word index and the word. -/
  | setPersonal (i : Fin 2) (data : Word)
  /-- R140: byte count, the four bits `nnnn` of R83's pattern (9..15 are ill-formed), and the data word. -/
  | update (n : Fin 16) (data : Word)
  /-- R160. -/
  | finalize
  /-- R165: digest word index. -/
  | readDigest (i : Fin 8)
  /-- R191. -/
  | readStatus
  /-- R192: counter word index, 0 = `T0`, 1 = `T1`. -/
  | readCounter (i : Fin 2)
  deriving DecidableEq, Repr

end Sys2Proof
end

