-- ==== Sys2Proof/Machine/State.lean ====
section
/-! DEFINITION. The state of B2C as plain data: the architectural registers (spec/10_state.md R20), the command port
(spec/70_reset_and_hazards.md R255), the outside world's inputs, the state after reset (R40, R250), and why a step stops. -/

namespace Sys2Proof.Machine

/-- R27: the phase, a 2-bit register. The value 3 is never produced (R41). -/
inductive Phase where
  /-- 0: no engine configured. -/
  | uncfg
  /-- 1: configured, not used yet. -/
  | ready
  /-- 2: first use has happened. -/
  | active
  /-- 3: unreachable; a command that meets it faults (R41). -/
  | unreachable3
  deriving DecidableEq, Repr

/-- The architectural state, exactly the elements of R20. -/
structure Regs where
  /-- `H[0..7]`, the chaining state (R21). -/
  h : Vector Word 8
  /-- `T0`, the low word of the byte counter (R22). -/
  t0 : Word
  /-- `T1`, the high word of the byte counter (R22). -/
  t1 : Word
  /-- `BUF[0..127]`, the block buffer (R23). -/
  buf : Vector Byte 128
  /-- `OFF`, the buffer offset, an 8-bit register (R24). -/
  off : Byte
  /-- `OUTLEN` (R25). -/
  outlen : Byte
  /-- `KEYLEN` (R25). -/
  keylen : Byte
  /-- `KEY[0..63]` (R26). -/
  key : Vector Byte 64
  /-- `PH` (R27). -/
  ph : Phase
  /-- `SALT[0..1]` (R28). -/
  salt : Vector Word 2
  /-- `SALTP` (R28). -/
  saltp : Bool
  /-- `PERS[0..1]` (R29). -/
  pers : Vector Word 2
  /-- `PERSP` (R29). -/
  persp : Bool
  /-- `DIG[0..7]`, the digest latch (R30). -/
  dig : Vector Word 8
  /-- `DIGV` (R31). -/
  digv : Bool
  deriving DecidableEq, Repr

/-- R40: the reset value of every element. -/
def Regs.reset : Regs where
  h := Vector.replicate 8 0
  t0 := 0
  t1 := 0
  buf := Vector.replicate 128 0
  off := 0
  outlen := 0
  keylen := 0
  key := Vector.replicate 64 0
  ph := .uncfg
  salt := Vector.replicate 2 0
  saltp := false
  pers := Vector.replicate 2 0
  persp := false
  dig := Vector.replicate 8 0
  digv := false

/-- R220: the four status codes; their values are `Status.code` (Machine/Ops.lean). -/
inductive Status where
  | ok | configError | sequenceError | illegalCommand
  deriving DecidableEq, Repr

/-- R80: the response, `STATUS[7:0]` and `RDATA[63:0]`. -/
structure Response where
  status : Byte
  rdata : Word
  deriving DecidableEq, Repr

/-- R255: the command port, with at most one command outstanding. -/
inductive Port where
  /-- No command in execution and no response pending: `cmd_ready = 1`, `rsp_valid = 0`. -/
  | idle
  /-- A command has been accepted and is in execution; `cmd` and `data` were sampled. -/
  | executing (t : Transfer)
  /-- The response is pending: `rsp_valid = 1`, with stable `status` and `rdata`. -/
  | responding (r : Response)
  deriving DecidableEq, Repr

/-- The wires into the block in one step (R250, R255): `RESET`; `cmd_valid` with `cmd` and `data` (none: `cmd_valid = 0`);
`rsp_ready`. -/
structure PortInput where
  reset : Bool
  command : Option Transfer
  rspReady : Bool
  deriving DecidableEq, Repr

/-- The whole machine. -/
structure State where
  /-- The architectural state (R20). -/
  regs : Regs
  /-- The command port (R255). -/
  port : Port
  /-- The model's own field: what the outside world drives in the steps to come, first sample first (log 2). -/
  inputs : List PortInput
  deriving DecidableEq, Repr

/-- Why the machine stops. Every one is unreachable from reset (R39 I1, I4, R41). -/
inductive Fault where
  /-- Raised by every command and every idle or responding step that meets `OFF > 128` (R41, U6: "must treat it as a
  fault"; in which steps: log 6). Safe: the hardware's behaviour there is not defined. -/
  | offsetOutOfRange
  /-- Raised likewise where `PH = 3` (R41, U6). Safe. -/
  | phaseUnreachable
  /-- Raised by an UPDATE or FINALIZE that would run INIT with `KEYLEN > 64`: R180's copy loop would read `KEY[64..]`,
  which does not exist (log 1). Safe. -/
  | keyLengthOutOfRange
  deriving DecidableEq, Repr

/-- Why the model has no meaning for an instruction. -/
inductive Refusal where
  /-- Raised only by an arm of exec for an instruction whose meaning is not written; no arm raises it. Safe. -/
  | notModelled (mnemonic : String)
  deriving DecidableEq, Repr

/-- R40, R250: every register at its reset value, no command in execution, no response pending; nothing driven from
outside yet (log 2). -/
def State.reset : State where
  regs := Regs.reset
  port := .idle
  inputs := []

end Sys2Proof.Machine
end

