-- ==== Sys2Proof/Machine/Operands.lean ====
section
/-! DEFINITION. Operand forms: the byte lanes of a data word, `LE64`, and the byte string an UPDATE carries
(spec/00_scope.md R11, spec/20_memory.md R64, spec/30_encoding.md R85, R86). -/

namespace Sys2Proof.Machine

/-- R11, R64: `byte(w, j) = w[8j+7:8j]`, lane `j` of a data word. -/
def byteLane (w : Word) (j : Nat) : Byte := w.extractLsb' (8 * j) 8

/-- R11: `LE64(b0, ..., b7)`, the byte at the lower index the less significant. -/
def le64 (b : Fin 8 → Byte) : Word :=
  (b 7 ++ b 6 ++ b 5 ++ b 4 ++ b 3 ++ b 2 ++ b 1 ++ b 0 : BitVec 64)

/-- R85: UPDATE's message bytes `byte(DATA, 0), ..., byte(DATA, N-1)`, in that order; lanes `N..7` are ignored. -/
def messageBytes (data : Word) (n : Nat) : List Byte := (List.range n).map (byteLane data)

/-- R86, R186: LOAD_KEY's word `k` holds key bytes `8k..8k+7`: `KEY[8k + j] <- byte(DATA, j)` for `j` in 0..7. -/
def writeKeyWord (key : Vector Byte 64) (k : Fin 8) (data : Word) : Vector Byte 64 :=
  [0, 1, 2, 3, 4, 5, 6, 7].foldl (fun (c : Vector Byte 64) (j : Fin 8) => c.set (8 * k.val + j.val) (byteLane data j.val)) key

end Sys2Proof.Machine
end

