-- ==== Sys2Proof/Machine/Compress.lean ====
section
/-! DEFINITION. The compression function F and the 128-bit counter (spec/41_compression.md R120 to R130). -/

namespace Sys2Proof.Machine

/-- R122, R60: the block as 16 little-endian words. -/
def parseBlock (blk : Vector Byte 128) : Vector Word 16 :=
  Vector.ofFn fun i => le64 fun j => blk[8 * i.val + j.val]

/-- R121: the working vector before the rounds. `V[15]` is not touched. -/
def workingVector (h : Vector Word 8) (t0 t1 : Word) (final : Bool) : Vector Word 16 :=
  let v : Vector Word 16 := h ++ iv
  let v := v.set 12 (v[12] ^^^ t0)
  let v := v.set 13 (v[13] ^^^ t1)
  if final then v.set 14 (~~~ v[14]) else v

/-- R123: the twelve rounds, in order. -/
def mixRounds (m : Vector Word 16) (v : Vector Word 16) : Vector Word 16 :=
  [0, 1, 2, 3, 4, 5, 6, 7, 8, 9, 10, 11].foldl (mixRound m) v

/-- R120: `F(h, blk, t0, t1, final)`; the feed-forward is R124. -/
def compress (h : Vector Word 8) (blk : Vector Byte 128) (t0 t1 : Word) (final : Bool) : Vector Word 8 :=
  let v := mixRounds (parseBlock blk) (workingVector h t0 t1 final)
  Vector.ofFn fun i => h[i] ^^^ v[i.val] ^^^ v[i.val + 8]

/-- R128: `CTR_INC(amount)`, for an amount of 0 to 128 held in 8 bits; the high word wraps (R130). -/
def Regs.ctrInc (r : Regs) (amount : Byte) : Regs :=
  let s : Word := r.t0 + amount.setWidth 64
  { r with t1 := if s < amount.setWidth 64 then r.t1 + 1 else r.t1, t0 := s }

end Sys2Proof.Machine
end

