-- ==== Sys2Proof/Machine/Ops.lean ====
section
/-! DEFINITION. The operations the commands share: responding and raising (spec/00_scope.md R13, spec/60_exceptions.md R220),
the check for unreachable states (10_state.md R41), INIT (44_init_config.md R180), ABSORB (42_buffer_update.md R141) and
the parts of FINALIZE (43_finalize_readout.md R160). -/

namespace Sys2Proof.Machine

/-- R220: the value of each status code. -/
def Status.code : Status → Byte
  | .ok => 0x00
  | .configError => 0x01
  | .sequenceError => 0x02
  | .illegalCommand => 0x03

/-- R13, R256: `respond(status, rdata)`: the single response of the command becomes pending on the port. -/
def State.respond (s : State) (st : Status) (rdata : Word) : State :=
  { s with port := .responding { status := st.code, rdata := rdata } }

/-- The command completes with its writes `r`: `respond(OK, rdata)`. -/
def complete (s : State) (r : Regs) (rdata : Word) : Host.Outcome State Fault Refusal :=
  .next ({ s with regs := r }.respond .ok rdata)

/-- R13, R221, R228: `raise <Error>`. The one way an error is taken: no write, `respond(<Error>, 0)`; no state is saved, no
mode changes, nothing is to be returned from. -/
def raise (s : State) (e : Status) : Host.Outcome State Fault Refusal :=
  .next (s.respond e 0)

/-- R41, U6: a state with `OFF > 128` or `PH = 3` is a fault, never a value; otherwise `k` (which steps
check it, and which fault comes first: log 6). -/
def guarded (s : State) (k : Host.Outcome State Fault Refusal) : Host.Outcome State Fault Refusal :=
  if 128 < s.regs.off.toNat then .fault .offsetOutOfRange
  else if s.regs.ph = .unreachable3 then .fault .phaseUnreachable
  else k

/-- R180 reads `KEY[0..KEYLEN-1]`: with `KEYLEN > 64` (unreachable, R39 I4) some of it does not exist (log 1). -/
def withKeyLength (s : State) (k : Host.Outcome State Fault Refusal) : Host.Outcome State Fault Refusal :=
  if 64 < s.regs.keylen.toNat then .fault .keyLengthOutOfRange else k

/-- R181: the parameter word `0x01010000 | (KEYLEN << 8) | OUTLEN`. -/
def parameterWord (outlen keylen : Byte) : Word :=
  0x01010000#64 ||| (keylen.setWidth 64 <<< 8) ||| outlen.setWidth 64

/-- R180, R182: the chaining state INIT builds. -/
def Regs.baselineH (r : Regs) : Vector Word 8 :=
  let h := iv
  let h := h.set 0 (h[0] ^^^ parameterWord r.outlen r.keylen)
  let h := if r.saltp then (h.set 4 (h[4] ^^^ r.salt[0])).set 5 (h[5] ^^^ r.salt[1]) else h
  if r.persp then (h.set 6 (h[6] ^^^ r.pers[0])).set 7 (h[7] ^^^ r.pers[1]) else h

/-- R180: the buffer INIT builds: the first `KEYLEN` key bytes, then zeros. -/
def Regs.baselineBuf (r : Regs) : Vector Byte 128 :=
  Vector.ofFn fun i => if h : i.val < r.keylen.toNat ∧ i.val < 64 then r.key[i.val] else 0

/-- R180: INIT. -/
def Regs.init (r : Regs) : Regs :=
  { r with
    h := r.baselineH
    t0 := 0
    t1 := 0
    buf := r.baselineBuf
    off := if 0 < r.keylen.toNat then 128 else 0 }

/-- R189, R142: "if PH = READY then INIT; PH <- ACTIVE". -/
def Regs.firstUse (r : Regs) : Regs :=
  if r.ph = .ready then { r.init with ph := .active } else r

/-- R141: the flush of a full block: count it, compress it non-final, empty the buffer. -/
def Regs.flush (r : Regs) : Regs :=
  let c := r.ctrInc 128
  { c with h := compress c.h c.buf c.t0 c.t1 false, off := 0 }

/-- R141: `BUF[OFF] <- b; OFF <- OFF + 1`. -/
def Regs.push (r : Regs) (b : Byte) : Regs :=
  { r with buf := r.buf.setIfInBounds r.off.toNat b, off := r.off + 1 }

/-- R141: `ABSORB(b)`. -/
def Regs.absorb (r : Regs) (b : Byte) : Regs :=
  if r.off = 128 then r.flush.push b else r.push b

/-- R140: the bytes of a command absorbed in order. -/
def Regs.absorbAll (r : Regs) (bs : List Byte) : Regs := bs.foldl Regs.absorb r

/-- R162: `BUF[OFF..127] <- 0`. -/
def zeroTail (buf : Vector Byte 128) (off : Byte) : Vector Byte 128 :=
  Vector.ofFn fun i => if i.val < off.toNat then buf[i] else 0

/-- R160: `TRUNC(w, base)`: byte `j` becomes 0 where `base + j >= OUTLEN`. -/
def truncWord (outlen : Byte) (w : Word) (base : Nat) : Word :=
  le64 fun j => if base + j.val < outlen.toNat then byteLane w j.val else 0

/-- R161, R162: the pending bytes counted, then the block padded with zeros. -/
def Regs.padded (r : Regs) : Regs :=
  let c := r.ctrInc r.off
  { c with buf := zeroTail c.buf c.off }

/-- R160: the final chaining state `hf`: the padded block compressed with the final flag. -/
def Regs.finalH (r : Regs) : Vector Word 8 :=
  let p := r.padded
  compress p.h p.buf p.t0 p.t1 true

/-- R163: the digest latch from the final chaining state. -/
def digestWords (outlen : Byte) (hf : Vector Word 8) : Vector Word 8 :=
  Vector.ofFn fun i => truncWord outlen hf[i] (8 * i.val)

/-- R160: FINALIZE after its first-use step: count, pad, compress, latch the digest, and R164's re-initialization. -/
def Regs.finalized (r : Regs) : Regs :=
  Regs.init { r.padded with dig := digestWords r.outlen r.finalH, digv := true }

end Sys2Proof.Machine
end

