-- ==== Sys2Proof/Machine/Buffer.lean ====
section
/-! DEFINITION. UPDATE (spec/42_buffer_update.md R140 to R149). -/

namespace Sys2Proof.Machine

/-- R140. A count of 9 to 15 is ILLEGAL_COMMAND (decode refuses it first, R82, R226); a count of 0 is a complete no-op
outside UNCFG (R144). -/
def execUpdate (n : Fin 16) (data : Word) (s : State) : Host.Outcome State Fault Refusal :=
  guarded s <|
    if 8 < n.val then raise s .illegalCommand
    else if s.regs.ph = .uncfg then raise s .sequenceError
    else if n.val = 0 then complete s s.regs 0
    else if s.regs.ph = .ready then
      withKeyLength s <| complete s (s.regs.firstUse.absorbAll (messageBytes data n)) 0
    else complete s (s.regs.absorbAll (messageBytes data n)) 0

end Sys2Proof.Machine
end

