-- ==== Sys2Proof/Machine/Configure.lean ====
section
/-! DEFINITION. CONFIG, LOAD_KEY, SET_SALT and SET_PERSONAL (spec/44_init_config.md R184 to R189). -/

namespace Sys2Proof.Machine

/-- R184: what a successful CONFIG leaves: every element at its reset value, then the lengths and the phase. -/
def Regs.configured (outlen keylen : Byte) : Regs :=
  { Regs.reset with outlen := outlen, keylen := keylen, ph := .ready }

/-- R184. -/
def execConfig (outlen keylen : Byte) (s : State) : Host.Outcome State Fault Refusal :=
  guarded s <|
    if outlen.toNat < 1 ∨ 64 < outlen.toNat then raise s .configError
    else if 64 < keylen.toNat then raise s .configError
    else complete s (Regs.configured outlen keylen) 0

/-- R186: the key word written. -/
def Regs.withKeyWord (r : Regs) (k : Fin 8) (data : Word) : Regs :=
  { r with key := writeKeyWord r.key k data }

/-- R186. -/
def execLoadKey (k : Fin 8) (data : Word) (s : State) : Host.Outcome State Fault Refusal :=
  guarded s <|
    if s.regs.ph = .ready then complete s (s.regs.withKeyWord k data) 0 else raise s .sequenceError

/-- R187: `SALT[i] <- DATA; SALTP <- 1`. -/
def Regs.withSaltWord (r : Regs) (i : Fin 2) (data : Word) : Regs :=
  { r with salt := r.salt.set i data, saltp := true }

/-- R187. -/
def execSetSalt (i : Fin 2) (data : Word) (s : State) : Host.Outcome State Fault Refusal :=
  guarded s <|
    if s.regs.ph = .ready then complete s (s.regs.withSaltWord i data) 0 else raise s .sequenceError

/-- R188: `PERS[i] <- DATA; PERSP <- 1`. -/
def Regs.withPersWord (r : Regs) (i : Fin 2) (data : Word) : Regs :=
  { r with pers := r.pers.set i data, persp := true }

/-- R188. -/
def execSetPersonal (i : Fin 2) (data : Word) (s : State) : Host.Outcome State Fault Refusal :=
  guarded s <|
    if s.regs.ph = .ready then complete s (s.regs.withPersWord i data) 0 else raise s .sequenceError

end Sys2Proof.Machine
end

