-- ==== Sys2Proof/Machine/Finalize.lean ====
section
/-! DEFINITION. FINALIZE and READ_DIGEST (spec/43_finalize_readout.md R160 to R172). -/

namespace Sys2Proof.Machine

/-- R160. INIT runs at the end in every case, so the key length is checked in every case (log 1). -/
def execFinalize (s : State) : Host.Outcome State Fault Refusal :=
  guarded s <|
    if s.regs.ph = .uncfg then raise s .sequenceError
    else withKeyLength s <| complete s s.regs.firstUse.finalized 0

/-- R165. -/
def execReadDigest (i : Fin 8) (s : State) : Host.Outcome State Fault Refusal :=
  guarded s <|
    if s.regs.digv then complete s s.regs s.regs.dig[i] else raise s .sequenceError

end Sys2Proof.Machine
end

