-- ==== Sys2Proof/Machine/Flags.lean ====
section
/-! DEFINITION. B2C has no condition codes (spec/10_state.md R36). The only status bits in state are `PH`, `SALTP`, `PERSP`
and `DIGV`, read through the status word (R37). -/

namespace Sys2Proof.Machine

/-- R27: the phase's two bits. -/
def Phase.bits : Phase → BitVec 2
  | .uncfg => 0
  | .ready => 1
  | .active => 2
  | .unreachable3 => 3

/-- R37: the status word, from bit 63 down to bit 0; every bit not listed reads 0. -/
def statusWord (r : Regs) : Word :=
  (0#24 ++ r.off ++ 0#8 ++ r.keylen ++ r.outlen ++ 0#3 ++ BitVec.ofBool r.persp ++ BitVec.ofBool r.saltp
    ++ BitVec.ofBool r.digv ++ r.ph.bits : BitVec 64)

end Sys2Proof.Machine
end

