-- ==== Sys2Proof/Machine/Observe.lean ====
section
/-! DEFINITION. NOP, READ_STATUS and READ_COUNTER (spec/44_init_config.md R190 to R192), and the answer to a word that is no
command (spec/30_encoding.md R88, spec/60_exceptions.md R224). -/

namespace Sys2Proof.Machine

/-- R190. -/
def execNop (s : State) : Host.Outcome State Fault Refusal :=
  guarded s <| complete s s.regs 0

/-- R191. -/
def execReadStatus (s : State) : Host.Outcome State Fault Refusal :=
  guarded s <| complete s s.regs (statusWord s.regs)

/-- R192: `T0` when `i = 0`, `T1` when `i = 1`. -/
def execReadCounter (i : Fin 2) (s : State) : Host.Outcome State Fault Refusal :=
  guarded s <| complete s s.regs (if i = 0 then s.regs.t0 else s.regs.t1)

/-- R88, R224: an illegal word has no effect and answers `(ILLEGAL_COMMAND, 0)`. -/
def execIllegal (s : State) : Host.Outcome State Fault Refusal :=
  guarded s <| raise s .illegalCommand

end Sys2Proof.Machine
end

