-- ==== Sys2Proof/Machine/Dispatch.lean ====
section
/-! DEFINITION. One arm per command (spec/30_encoding.md R83). -/

namespace Sys2Proof.Machine

def exec (i : Instr) (s : State) : Host.Outcome State Fault Refusal :=
  match i with
  | .nop => Sys2Proof.Machine.execNop s
  | .config outlen keylen => Sys2Proof.Machine.execConfig outlen keylen s
  | .loadKey k data => Sys2Proof.Machine.execLoadKey k data s
  | .setSalt k data => Sys2Proof.Machine.execSetSalt k data s
  | .setPersonal k data => Sys2Proof.Machine.execSetPersonal k data s
  | .update n data => Sys2Proof.Machine.execUpdate n data s
  | .finalize => Sys2Proof.Machine.execFinalize s
  | .readDigest k => Sys2Proof.Machine.execReadDigest k s
  | .readStatus => Sys2Proof.Machine.execReadStatus s
  | .readCounter k => Sys2Proof.Machine.execReadCounter k s

end Sys2Proof.Machine
end

