-- ==== Sys2Proof/WellFormed.lean ====
section
/-! DEFINITION. Which terms of `Instr` have an encoding (spec/30_encoding.md R82, R83). The index ranges of LOAD_KEY,
SET_SALT, SET_PERSONAL, READ_DIGEST and READ_COUNTER are in the types; CONFIG's operands take every value (R87). -/

namespace Sys2Proof

/-- R83: "`nnnn <= 8`" is the one constraint an operand type does not carry. -/
def Instr.wellFormed : Instr → Bool
  | .update n _ => n.val ≤ 8
  | .nop => true
  | .config _ _ => true
  | .loadKey _ _ => true
  | .setSalt _ _ => true
  | .setPersonal _ _ => true
  | .finalize => true
  | .readDigest _ => true
  | .readStatus => true
  | .readCounter _ => true

end Sys2Proof
end

