-- ==== Sys2Proof/Decode.lean ====
section
/-! DEFINITION. The decoder, total on every transfer, and the encoder (spec/30_encoding.md R81, R82, R83, R88, R92). -/

namespace Sys2Proof

/-- R81: OPC = CMD[7:0]. -/
def fieldOpc (c : BitVec 32) : Byte := c.extractLsb' 0 8
/-- R81: A = CMD[15:8]. -/
def fieldA (c : BitVec 32) : Byte := c.extractLsb' 8 8
/-- R81: B = CMD[23:16]. -/
def fieldB (c : BitVec 32) : Byte := c.extractLsb' 16 8
/-- R81: RSV = CMD[31:24]. -/
def fieldRsv (c : BitVec 32) : Byte := c.extractLsb' 24 8

/-- Why a command word is illegal (R88, R224). The response is ILLEGAL_COMMAND whichever it is. -/
inductive IllegalWord where
  /-- `RSV != 0`. -/
  | reservedField
  /-- OPC in 0x0A..0xFF. -/
  | reservedOpcode
  /-- `A` or `B` breaks its opcode's constraint. -/
  | operandField
  deriving DecidableEq, Repr

/-- R82, the opcodes without operand: NOP, FINALIZE, READ_STATUS. -/
def decodePlain (a b : Byte) (i : Instr) : Except IllegalWord Instr :=
  if a = 0 ∧ b = 0 then .ok i else .error .operandField

/-- R82, the opcodes whose `A` is an index below `bound` and whose `B` is 0. -/
def decodeIndexed (bound : Nat) (a b : Byte) (mk : Fin bound → Instr) : Except IllegalWord Instr :=
  if h : a.toNat < bound then
    if b = 0 then .ok (mk ⟨a.toNat, h⟩) else .error .operandField
  else .error .operandField

/-- R82, UPDATE: `a > 8` or `b != 0` is illegal. -/
def decodeUpdate (a b : Byte) (data : Word) : Except IllegalWord Instr :=
  if h : a.toNat ≤ 8 then
    if b = 0 then .ok (.update ⟨a.toNat, by omega⟩ data) else .error .operandField
  else .error .operandField

/-- R82: the decode of every command, before every phase check and every write. `DATA` never makes a command illegal. -/
def decode (t : Transfer) : Except IllegalWord Instr :=
  let a := fieldA t.cmd
  let b := fieldB t.cmd
  if fieldRsv t.cmd = 0 then
    match (fieldOpc t.cmd).toNat with
    | 0x00 => decodePlain a b .nop
    | 0x01 => .ok (.config a b)
    | 0x02 => decodeIndexed 8 a b (.loadKey · t.data)
    | 0x03 => decodeIndexed 2 a b (.setSalt · t.data)
    | 0x04 => decodeIndexed 2 a b (.setPersonal · t.data)
    | 0x05 => decodeUpdate a b t.data
    | 0x06 => decodePlain a b .finalize
    | 0x07 => decodeIndexed 8 a b .readDigest
    | 0x08 => decodePlain a b .readStatus
    | 0x09 => decodeIndexed 2 a b .readCounter
    | _ => .error .reservedOpcode
  else .error .reservedField

/-- The transfer that an opcode-table row with `nbits` bits `w` stands for: `CMD` is the first 32 bits, `DATA` the next
64; every bit above `nbits` is 0. -/
def tableTransfer (nbits w : Nat) : Transfer :=
  { cmd := BitVec.ofNat 32 (w % 2 ^ nbits), data := BitVec.ofNat 64 (w % 2 ^ nbits / 2 ^ 32) }

/-- What the decoder reads from an opcode-table word. -/
def decodeTableWord (nbits w : Nat) : Option Instr :=
  match decode (tableTransfer nbits w) with
  | .ok i => some i
  | .error _ => none

/-- R81: the command word with `RSV = 0` and the given fields, `{RSV, B, A, OPC}`. -/
def commandWord (opc a b : Byte) : BitVec 32 := (0#8 ++ b ++ a ++ opc : BitVec 32)

/-- The encoder: R83's opcode and fields, and R92's `DATA` (0 for a command that ignores it). -/
def encode : Instr → Transfer
  | .nop => { cmd := commandWord 0x00 0 0, data := 0 }
  | .config outlen keylen => { cmd := commandWord 0x01 outlen keylen, data := 0 }
  | .loadKey k data => { cmd := commandWord 0x02 (BitVec.ofNat 8 k) 0, data := data }
  | .setSalt i data => { cmd := commandWord 0x03 (BitVec.ofNat 8 i) 0, data := data }
  | .setPersonal i data => { cmd := commandWord 0x04 (BitVec.ofNat 8 i) 0, data := data }
  | .update n data => { cmd := commandWord 0x05 (BitVec.ofNat 8 n) 0, data := data }
  | .finalize => { cmd := commandWord 0x06 0 0, data := 0 }
  | .readDigest i => { cmd := commandWord 0x07 (BitVec.ofNat 8 i) 0, data := 0 }
  | .readStatus => { cmd := commandWord 0x08 0 0, data := 0 }
  | .readCounter i => { cmd := commandWord 0x09 (BitVec.ofNat 8 i) 0, data := 0 }

/-- One row of R83's second table: the fixed bits of a command word. -/
structure OpcodeRow where
  mnemonic : String
  pattern : BitVec 32
  mask : BitVec 32
  deriving DecidableEq, Repr

/-- The table of R83 (match and mask columns), row by row. UPDATE's row has the further constraint `nnnn <= 8`. -/
def opcodeRows : List OpcodeRow :=
  [ ⟨"NOP", 0x00000000, 0xFFFFFFFF⟩,
    ⟨"CONFIG", 0x00000001, 0xFF0000FF⟩,
    ⟨"LOAD_KEY", 0x00000002, 0xFFFFF8FF⟩,
    ⟨"SET_SALT", 0x00000003, 0xFFFFFEFF⟩,
    ⟨"SET_PERSONAL", 0x00000004, 0xFFFFFEFF⟩,
    ⟨"UPDATE", 0x00000005, 0xFFFFF0FF⟩,
    ⟨"FINALIZE", 0x00000006, 0xFFFFFFFF⟩,
    ⟨"READ_DIGEST", 0x00000007, 0xFFFFF8FF⟩,
    ⟨"READ_STATUS", 0x00000008, 0xFFFFFFFF⟩,
    ⟨"READ_COUNTER", 0x00000009, 0xFFFFFEFF⟩ ]

/-- R83: a command word matches a row when its fixed bits are the row's, and, for UPDATE, `nnnn <= 8`. -/
def OpcodeRow.matchesWord (r : OpcodeRow) (c : BitVec 32) : Bool :=
  c &&& r.mask == r.pattern && (r.mnemonic != "UPDATE" || (c.extractLsb' 8 4).toNat ≤ 8)

/-- The mnemonic of R83 a command has. -/
def Instr.mnemonic : Instr → String
  | .nop => "NOP"
  | .config _ _ => "CONFIG"
  | .loadKey _ _ => "LOAD_KEY"
  | .setSalt _ _ => "SET_SALT"
  | .setPersonal _ _ => "SET_PERSONAL"
  | .update _ _ => "UPDATE"
  | .finalize => "FINALIZE"
  | .readDigest _ => "READ_DIGEST"
  | .readStatus => "READ_STATUS"
  | .readCounter _ => "READ_COUNTER"

end Sys2Proof
end

