-- ==== Sys2Proof/Machine/Port.lean ====
section
/-! DEFINITION. The command port's handshake and the reset input (spec/70_reset_and_hazards.md R250, R251, R255, R256). -/

namespace Sys2Proof.Machine

/-- The wires at rest: `RESET = 0`, `cmd_valid = 0`, `rsp_ready = 0` (log 2). -/
def quietInput : PortInput := { reset := false, command := none, rspReady := false }

/-- The sample of this step; once the outside world drives nothing more, the wires are at rest (log 2). -/
def State.sample (s : State) : PortInput := s.inputs.headD quietInput

/-- The state with this step's sample used up. -/
def State.advance (s : State) : State := { s with inputs := s.inputs.tail }

/-- R255: `cmd_ready`, 1 exactly while no command is outstanding; while `RESET = 1` the model's choice (log 11). -/
def State.cmdReady (s : State) : Bool := s.port == .idle

/-- R255: the response outputs, present exactly while `rsp_valid = 1`; while `RESET = 1` the model's choice (log 11). -/
def State.response (s : State) : Option Response :=
  match s.port with
  | .responding r => some r
  | .executing _ => none
  | .idle => none

/-- R255: `rsp_valid`. R255 gives it after reset; that it ignores `RESET`, so that a pending response still shows in the
cycle of the reset, is the model's choice (log 11). -/
def State.rspValid (s : State) : Bool := s.response.isSome

/-- R250, R251: `RESET` wins: the reset state, whatever the port was doing, also where `OFF > 128` or
`PH = 3` (log 6); the outside world's later inputs stay. -/
def takeReset (s : State) : Host.Outcome State Fault Refusal :=
  .next { State.reset with inputs := s.inputs }

/-- R255: in an idle cycle a command is accepted when `cmd_valid = 1`, and `cmd` and `data` are sampled; else the block
holds all state (60_exceptions.md R236). -/
def acceptCommand (c : Option Transfer) (s : State) : Host.Outcome State Fault Refusal :=
  guarded s <|
    match c with
    | some t => .next { s with port := .executing t }
    | none => .next s

/-- R255: while `rsp_valid = 1` no command is accepted; the response is taken when `rsp_ready = 1`, else it stays. -/
def offerResponse (rspReady : Bool) (s : State) : Host.Outcome State Fault Refusal :=
  guarded s <| if rspReady then .next { s with port := .idle } else .next s

/-- A sample with `RESET` at 0. -/
def PortInput.withoutReset (x : PortInput) : PortInput := { x with reset := false }

/-- The inputs with the first sample's `RESET` at 0, so that the next step is no reset. -/
def withoutResetNow (xs : List PortInput) : List PortInput :=
  match xs with
  | [] => []
  | x :: rest => x.withoutReset :: rest

/-- The state in which `t` has just been accepted and the next step runs it (log 5). -/
def State.withTransfer (s : State) (t : Transfer) : State :=
  { s with port := .executing t, inputs := withoutResetNow s.inputs }

end Sys2Proof.Machine
end

