-- ==== Sys2Proof/Machine/Step.lean ====
section
/-! DEFINITION. One step of B2C: one sample of the input wires (spec/70_reset_and_hazards.md R255), the reset input first
(R251), then what the port is doing. A command's execution is one step (spec/00_scope.md R14). -/

namespace Sys2Proof.Machine

/-- R82: decode the accepted transfer, then run the command or answer ILLEGAL_COMMAND. -/
def runTransfer (t : Transfer) (s : State) : Host.Outcome State Fault Refusal :=
  match decode t with
  | .ok i => exec i s
  | .error _ => execIllegal s

/-- One step. -/
def step (s : State) : Host.Outcome State Fault Refusal :=
  if s.sample.reset then takeReset s.advance
  else
    match s.port with
    | .idle => acceptCommand s.sample.command s.advance
    | .executing t => runTransfer t s.advance
    | .responding _ => offerResponse s.sample.rspReady s.advance

/-- The state whose next step runs exactly the opcode-table word `w` (log 5). -/
def State.withFetchWord (s : State) (nbits w : Nat) : State := s.withTransfer (tableTransfer nbits w)

end Sys2Proof.Machine
end

