-- ==== Sys2Proof/Machine/Asm.lean ====
section
/-! DEFINITION. The assembly syntax of a command stream (spec/30_encoding.md R92) and the pseudo-instructions (R93). -/

namespace Sys2Proof.Machine

/-- R92: one line of assembly, with its numbers as written. -/
inductive Asm where
  | nop
  | config (outlen keylen : Nat)
  | ldkey (k : Nat) (imm : Word)
  | salt (i : Nat) (imm : Word)
  | pers (i : Nat) (imm : Word)
  | upd (n : Nat) (imm : Word)
  | fin
  | rddig (i : Nat)
  | rdstat
  | rdctr (i : Nat)
  /-- `.cmd <cmd32>, <data64>`: any raw transfer. -/
  | cmd (cmd : BitVec 32) (data : Word)
  deriving DecidableEq, Repr

/-- R92: `(x << 8) | opc` with `DATA`, where the assembler accepts `x` up to `max`. -/
def assembleIndexed (max x opc : Nat) (data : Word) : Option Transfer :=
  if x ≤ max then some { cmd := BitVec.ofNat 32 (x * 2 ^ 8 + opc), data := data } else none

/-- R92: what a line encodes; none where the assembler refuses an operand out of the range of R82. -/
def assemble : Asm → Option Transfer
  | .nop => some { cmd := 0x00000000, data := 0 }
  | .config outlen keylen =>
    if outlen ≤ 255 ∧ keylen ≤ 255 then
      some { cmd := BitVec.ofNat 32 (keylen * 2 ^ 16 + outlen * 2 ^ 8 + 0x01), data := 0 }
    else none
  | .ldkey k imm => assembleIndexed 7 k 0x02 imm
  | .salt i imm => assembleIndexed 1 i 0x03 imm
  | .pers i imm => assembleIndexed 1 i 0x04 imm
  | .upd n imm => assembleIndexed 8 n 0x05 imm
  | .fin => some { cmd := 0x00000006, data := 0 }
  | .rddig i => assembleIndexed 7 i 0x07 0
  | .rdstat => some { cmd := 0x00000008, data := 0 }
  | .rdctr i => assembleIndexed 1 i 0x09 0
  | .cmd c data => some { cmd := c, data := data }

/-- R92: the line of a command. -/
def asmOf : Instr → Asm
  | .nop => .nop
  | .config outlen keylen => .config outlen.toNat keylen.toNat
  | .loadKey k data => .ldkey k data
  | .setSalt i data => .salt i data
  | .setPersonal i data => .pers i data
  | .update n data => .upd n data
  | .finalize => .fin
  | .readDigest i => .rddig i
  | .readStatus => .rdstat
  | .readCounter i => .rdctr i

/-- R92: the disassembler; it prints a word no row of R83 matches as `.cmd`. -/
def disassemble (t : Transfer) : Asm :=
  match decode t with
  | .ok i => asmOf i
  | .error _ => .cmd t.cmd t.data

/-- R93: `chunks8(s)`, consecutive pieces of 8 bytes with a last piece of 1 to 8 bytes. -/
def chunks8 : List Byte → List (List Byte)
  | [] => []
  | b0 :: b1 :: b2 :: b3 :: b4 :: b5 :: b6 :: b7 :: rest => [b0, b1, b2, b3, b4, b5, b6, b7] :: chunks8 rest
  | short => [short]

/-- R93: `LE64(p)` of a piece of at most 8 bytes, zero-padded. -/
def pieceWord (p : List Byte) : Word := le64 fun j => p.getD j.val 0

/-- R93: the pseudo-instructions. -/
inductive Pseudo where
  | updb (bytes : List Byte)
  | upds (s : List Byte)
  | finb (s : List Byte)
  | keys (s : List Byte)
  | salts (s : List Byte)
  | perss (s : List Byte)
  /-- `RDDIGS`, with the OUTLEN of the last CONFIG. -/
  | rddigs (outlen : Nat)
  | hash (n : Nat) (s : List Byte)
  | mac (n : Nat) (key s : List Byte)
  deriving DecidableEq, Repr

/-- R93: `UPD len(p), LE64(p)`. -/
def updateOf (p : List Byte) : Instr := .update (Fin.ofNat 16 p.length) (pieceWord p)

/-- R93: `UPDS s`. -/
def expandUpds (s : List Byte) : List Instr := (chunks8 s).map updateOf

/-- R93: `KEYS s`, one LDKEY per word the key reaches into. -/
def expandKeys (s : List Byte) : List Instr :=
  (chunks8 s).zipIdx.map fun p => .loadKey (Fin.ofNat 8 p.2) (pieceWord p.1)

/-- R93: `RDDIG 0` ... `RDDIG ceil(OUTLEN/8)-1`. -/
def expandRddigs (outlen : Nat) : List Instr :=
  (List.range ((outlen + 7) / 8)).map fun i => .readDigest (Fin.ofNat 8 i)

/-- R93: the expansion of a pseudo-instruction; none where its side condition (a length, or a CONFIG operand of R92) fails. -/
def Pseudo.expand : Pseudo → Option (List Instr)
  | .updb bytes => if 1 ≤ bytes.length ∧ bytes.length ≤ 8 then some [updateOf bytes] else none
  | .upds s => some (expandUpds s)
  | .finb s => some (expandUpds s ++ [.finalize])
  | .keys s => if s.length ≤ 64 then some (expandKeys s) else none
  | .salts s =>
    if s.length = 16 then some [.setSalt 0 (pieceWord (s.take 8)), .setSalt 1 (pieceWord (s.drop 8))] else none
  | .perss s =>
    if s.length = 16 then some [.setPersonal 0 (pieceWord (s.take 8)), .setPersonal 1 (pieceWord (s.drop 8))] else none
  | .rddigs outlen => if outlen ≤ 64 then some (expandRddigs outlen) else none
  | .hash n s =>
    if n ≤ 64 then
      some ([.config (BitVec.ofNat 8 n) 0] ++ expandUpds s ++ [.finalize] ++ expandRddigs n)
    else none
  | .mac n key s =>
    if n ≤ 64 ∧ key.length ≤ 64 then
      some ([.config (BitVec.ofNat 8 n) (BitVec.ofNat 8 key.length)] ++ expandKeys key ++ expandUpds s ++ [.finalize]
        ++ expandRddigs n)
    else none

/-- R93: the digest a sequence yields, the first OUTLEN bytes of the words it reads, each taken lane 0 first. -/
def digestOfWords (outlen : Nat) (ws : List Word) : List Byte :=
  (ws.flatMap fun w => messageBytes w 8).take outlen

end Sys2Proof.Machine
end

