-- ==== Sys2Proof/Machine/Session.lean ====
section
/-! DEFINITION. A host session: a sequence of commands run one after another, with the responses in command order
(spec/20_memory.md R70, spec/70_reset_and_hazards.md R256). -/

namespace Sys2Proof.Machine

/-- The commands in order and the response of each, as long as none stops. -/
def runCommands : List Instr → State → Option (State × List Response)
  | [], s => some (s, [])
  | i :: rest, s =>
    match exec i s with
    | .next s' => (runCommands rest s').map fun p => (p.1, s'.response.toList ++ p.2)
    | .fault _ => none
    | .refused _ => none

end Sys2Proof.Machine
end

