-- ==== Sys2Proof/Config.lean ====
section
/-! DEFINITION. What an implementation of B2C fixes and the spec leaves open: the command latencies, nothing else
(spec/70_reset_and_hazards.md R264, spec/93_implementation_defined.md U7). The block's other parameters have one value in
the spec (00_scope.md R7) and stand as numbers where the rules use them. No result of any command is left open, so there is
no free value. -/

namespace Sys2Proof

/-- The names `LAT_<mnemonic>` of R264, one each. -/
inductive LatencyName where
  | nop | config | ldkey | salt | pers | upd | fin | rddig | rdstat | rdctr | illegal
  deriving DecidableEq, Repr

/-- R264: one less than the number of clock cycles from acceptance to response (so that the number itself,
`Machine.latency`, is a positive integer); it "may depend on whether a compression is performed", the second argument.
The third is the occasion, a number of its own for each command executed, so that two executions of one command need not
take equally long: a model "must not assume that latencies are independent of data, key or phase, nor that they depend on
them" (R265). OPEN in the spec: no body, so nothing can rest on a value of it (U7, U9; log 3). -/
opaque Config.latencyPred : LatencyName → Bool → Nat → Nat

end Sys2Proof
end

