-- ==== Sys2Proof/Machine/Work.lean ====
section
/-! DEFINITION. The work of a command counted in evaluations of F (spec/70_reset_and_hazards.md R263) and its latency (R264).
Neither changes the state. -/

namespace Sys2Proof.Machine

/-- R263: how often absorbing the bytes finds `OFF = 128`. -/
def flushCount (r : Regs) : List Byte → Nat
  | [] => 0
  | b :: bs => (if r.off = 128 then 1 else 0) + flushCount (r.absorb b) bs

/-- R263: the evaluations of F a command performs in a state with registers `r`. -/
def evaluations (i : Instr) (r : Regs) : Nat :=
  match i with
  | .update n data =>
    if 8 < n.val ∨ r.ph = .uncfg ∨ n.val = 0 then 0 else flushCount r.firstUse (messageBytes data n)
  | .finalize => if r.ph = .uncfg then 0 else 1
  | .nop => 0
  | .config _ _ => 0
  | .loadKey _ _ => 0
  | .setSalt _ _ => 0
  | .setPersonal _ _ => 0
  | .readDigest _ => 0
  | .readStatus => 0
  | .readCounter _ => 0

/-- R264: the latency parameter of each command. -/
def latencyName : Instr → LatencyName
  | .nop => .nop
  | .config _ _ => .config
  | .loadKey _ _ => .ldkey
  | .setSalt _ _ => .salt
  | .setPersonal _ _ => .pers
  | .update n _ => if n.val ≤ 8 then .upd else .illegal
  | .finalize => .fin
  | .readDigest _ => .rddig
  | .readStatus => .rdstat
  | .readCounter _ => .rdctr

/-- R264, R265: `LAT_<mnemonic>` for a command in a state on some occasion, a positive number of cycles; the step does not
count them (log 3). -/
def latency (i : Instr) (r : Regs) (occasion : Nat) : Nat :=
  Config.latencyPred (latencyName i) (decide (0 < evaluations i r)) occasion + 1

/-- R264: `LAT_ILLEGAL`. -/
def latencyIllegal (occasion : Nat) : Nat := Config.latencyPred .illegal false occasion + 1

end Sys2Proof.Machine
end

