-- ==== Sys2Proof/Safety.lean ====
section
/-! DEFINITION. The terms the statements use: the invariants of the registers (spec/10_state.md R39), the states a command
runs in (R41), the phase table (spec/44_init_config.md R195), and BLAKE2b as a function of byte strings, written without the
buffer manager (spec/00_scope.md R1, spec/41_compression.md R132). -/

namespace Sys2Proof.Machine

/-- The byte of the digest latch at digest position `k` (R30: byte `8i+j` of the digest in byte `j` of `DIG[i]`). -/
def digestByte (dig : Vector Word 8) (k : Fin 64) : Byte := byteLane dig[k.val / 8] (k.val % 8)

/-- The invariants R39 lists (I9 constrains nothing), R41's excluded phase, and R195's `DIGV = 0` outside ACTIVE. -/
structure Regs.Inv (r : Regs) : Prop where
  /-- I1: `0 <= OFF <= 128`. -/
  off_le : r.off.toNat ≤ 128
  /-- R27, R41: the value 3 is never produced. -/
  ph_legal : r.ph ≠ .unreachable3
  /-- I2. -/
  idle_zero : r.ph = .uncfg ∨ r.ph = .ready →
    r.h = Vector.replicate 8 0 ∧ r.t0 = 0 ∧ r.t1 = 0 ∧ r.buf = Vector.replicate 128 0 ∧ r.off = 0
  /-- I3. -/
  uncfg_zero : r.ph = .uncfg →
    r.outlen = 0 ∧ r.keylen = 0 ∧ r.key = Vector.replicate 64 0 ∧ r.salt = Vector.replicate 2 0 ∧
    r.pers = Vector.replicate 2 0 ∧ r.saltp = false ∧ r.persp = false ∧ r.dig = Vector.replicate 8 0 ∧ r.digv = false
  /-- I4. -/
  lengths : r.ph ≠ .uncfg → 1 ≤ r.outlen.toNat ∧ r.outlen.toNat ≤ 64 ∧ r.keylen.toNat ≤ 64
  /-- I5: `T0 mod 128 = 0`. -/
  counter_aligned : r.t0.toNat % 128 = 0
  /-- I6. -/
  empty_baseline : r.ph = .active → r.off = 0 → r.t0 = 0 ∧ r.t1 = 0 ∧ r.keylen = 0
  /-- I7: `DIGV = 1` implies the digest bytes at positions `>= OUTLEN` are 0. -/
  digest_truncated : r.digv = true → ∀ k : Fin 64, r.outlen.toNat ≤ k.val → digestByte r.dig k = 0
  /-- I8: `DIGV = 0` implies `DIG = 0`. -/
  digest_empty : r.digv = false → r.dig = Vector.replicate 8 0
  /-- R195: `DIGV = 0` in UNCFG and in READY. -/
  digest_only_active : r.ph = .uncfg ∨ r.ph = .ready → r.digv = false

/-- The machine's invariant: R39 between commands, and while a command is in execution or its response is pending. -/
def State.Inv (s : State) : Prop := s.regs.Inv

/-- R41: the states whose behaviour the spec defines, `OFF <= 128` and `PH != 3`. -/
def Regs.inSpec (r : Regs) : Bool := r.off.toNat ≤ 128 && r.ph != .unreachable3

/-- R39 I4: a key length INIT can copy (log 1). -/
def Regs.keyFits (r : Regs) : Bool := r.keylen.toNat ≤ 64

/-- A step that stops: a fault or a refusal. -/
def stops (o : Host.Outcome State Fault Refusal) : Bool :=
  match o with
  | .next _ => false
  | .fault _ => true
  | .refused _ => true

/-- The command's response is pending with the given status code and data, and it used no input (R13, R80, R256). -/
def Answers (s t : State) (code : Byte) (rdata : Word) : Prop :=
  t.port = .responding { status := code, rdata := rdata } ∧ t.inputs = s.inputs

/-- R127: the counter's value `T1 * 2^64 + T0`. -/
def Regs.count (r : Regs) : Nat := r.t1.toNat * 2 ^ 64 + r.t0.toNat

/-- R195: the status a command answers with (a count above 8 is no UPDATE, R224). -/
def expectedStatus (i : Instr) (r : Regs) : Status :=
  match i with
  | .nop => .ok
  | .config outlen keylen =>
    if 1 ≤ outlen.toNat ∧ outlen.toNat ≤ 64 ∧ keylen.toNat ≤ 64 then .ok else .configError
  | .loadKey _ _ => if r.ph = .ready then .ok else .sequenceError
  | .setSalt _ _ => if r.ph = .ready then .ok else .sequenceError
  | .setPersonal _ _ => if r.ph = .ready then .ok else .sequenceError
  | .update n _ =>
    if 8 < n.val then .illegalCommand else if r.ph = .uncfg then .sequenceError else .ok
  | .finalize => if r.ph = .uncfg then .sequenceError else .ok
  | .readDigest _ => if r.digv then .ok else .sequenceError
  | .readStatus => .ok
  | .readCounter _ => .ok

/-- R195: the phase a command that answers OK leaves. -/
def expectedPhase (i : Instr) (r : Regs) : Phase :=
  match i with
  | .config _ _ => .ready
  | .update n _ => if n.val = 0 then r.ph else .active
  | .finalize => .active
  | .nop => r.ph
  | .loadKey _ _ => r.ph
  | .setSalt _ _ => r.ph
  | .setPersonal _ _ => r.ph
  | .readDigest _ => r.ph
  | .readStatus => r.ph
  | .readCounter _ => r.ph

/-- R83: the commands whose `DATA` is not ignored. -/
def carriesData (i : Instr) : Bool :=
  match i with
  | .loadKey _ _ => true
  | .setSalt _ _ => true
  | .setPersonal _ _ => true
  | .update _ _ => true
  | .nop => false
  | .config _ _ => false
  | .finalize => false
  | .readDigest _ => false
  | .readStatus => false
  | .readCounter _ => false

/-- What a host learns from the responses of the read commands and from the phase checks: everything but `H`, `BUF`, `KEY`,
`SALT` and `PERS` (R231, R235). -/
structure Observable where
  t0 : Word
  t1 : Word
  off : Byte
  outlen : Byte
  keylen : Byte
  ph : Phase
  saltp : Bool
  persp : Bool
  dig : Vector Word 8
  digv : Bool
  deriving DecidableEq, Repr

/-- The observable part of the registers. -/
def Regs.observable (r : Regs) : Observable :=
  { t0 := r.t0, t1 := r.t1, off := r.off, outlen := r.outlen, keylen := r.keylen, ph := r.ph, saltp := r.saltp,
    persp := r.persp, dig := r.dig, digv := r.digv }

/-! BLAKE2b of a byte string, from the rules about the message as a whole (R132, R143, R146, R162, R163, R181, R182): no
buffer, no offset, no phase. -/

/-- R162: at most 128 bytes padded with zeros to a block. -/
def padBlock (bs : List Byte) : Vector Byte 128 := Vector.ofFn fun i => bs.getD i.val 0

/-- R132: the compressions of a message, the last 1 to 128 bytes (or the empty message) with the final flag; `count` is the
bytes compressed so far; each compression sees the count up to and including its own block. -/
def hashBlocks : Nat → Vector Word 8 → Nat → List Byte → Vector Word 8
  | 0, h, _, _ => h
  | fuel + 1, h, count, data =>
    if data.length ≤ 128 then
      compress h (padBlock data) (BitVec.ofNat 64 (count + data.length))
        (BitVec.ofNat 64 ((count + data.length) / 2 ^ 64)) true
    else
      hashBlocks fuel
        (compress h (padBlock (data.take 128)) (BitVec.ofNat 64 (count + 128))
          (BitVec.ofNat 64 ((count + 128) / 2 ^ 64)) false)
        (count + 128) (data.drop 128)

/-- R181, R182: the 64 parameter bytes: output length, key length, 0x01, 0x01, 28 zeros, salt, personalization. -/
def parameterBytes (outlen keylen : Nat) (salt pers : Option (List Byte)) : List Byte :=
  [BitVec.ofNat 8 outlen, BitVec.ofNat 8 keylen, 1, 1] ++ List.replicate 28 0 ++ salt.getD (List.replicate 16 0)
    ++ pers.getD (List.replicate 16 0)

/-- R181, R182: the first chaining state, `IV` XOR the parameter words. -/
def referenceH (outlen keylen : Nat) (salt pers : Option (List Byte)) : Vector Word 8 :=
  Vector.ofFn fun i => iv[i] ^^^ pieceWord (((parameterBytes outlen keylen salt pers).drop (8 * i.val)).take 8)

/-- R146: the bytes hashed, the zero-padded key block before the message when there is a key. -/
def keyedMessage (key msg : List Byte) : List Byte :=
  (if key = [] then [] else key ++ List.replicate (128 - key.length) 0) ++ msg

/-- BLAKE2b of a message (R1). -/
def referenceDigest (outlen : Nat) (key msg : List Byte) (salt pers : Option (List Byte)) : List Byte :=
  let data := keyedMessage key msg
  digestOfWords outlen (hashBlocks (data.length + 1) (referenceH outlen key.length salt pers) 0 data).toList

/-- The two SALT lines of `SALTS s` (R93), or none. -/
def saltCommands (salt : Option (List Byte)) : List Instr :=
  match salt with
  | none => []
  | some s => [.setSalt 0 (pieceWord (s.take 8)), .setSalt 1 (pieceWord (s.drop 8))]

/-- The two PERS lines of `PERSS s` (R93), or none. -/
def persCommands (pers : Option (List Byte)) : List Instr :=
  match pers with
  | none => []
  | some s => [.setPersonal 0 (pieceWord (s.take 8)), .setPersonal 1 (pieceWord (s.drop 8))]

/-- R254: the commands of a complete message computation, up to and including FIN; `updates` is any split of the message
into UPDATE commands. -/
def messageCommands (outlen : Nat) (key : List Byte) (salt pers : Option (List Byte)) (updates : List Instr) :
    List Instr :=
  [.config (BitVec.ofNat 8 outlen) (BitVec.ofNat 8 key.length)] ++ expandKeys key ++ saltCommands salt
    ++ persCommands pers ++ updates ++ [.finalize]

/-- R85: the bytes the UPDATE commands of a list carry, in order. -/
def updateBytes (us : List (Fin 16 × Word)) : List Byte := us.flatMap fun u => messageBytes u.2 u.1

/-- The UPDATE commands with the given counts and data. -/
def updateCommands (us : List (Fin 16 × Word)) : List Instr := us.map fun u => .update u.1 u.2

end Sys2Proof.Machine
end

