-- ==== Sys2Proof/Certificates/Slice0/Obligations.lean ====
section
/-! DEFINITION. The statements for the provers: what the commands, the port, the encoding and the hash do, from the numbered
rules of spec/. Status codes stand as numbers: 0 OK, 1 CONFIG_ERROR, 2 SEQUENCE_ERROR, 3 ILLEGAL_COMMAND (R220).
A rule the spec itself marks as an inference ("derived: ...") or as general knowledge is cited in a docstring to say where the
sentence stands; a statement about one has basis 'derived' in OBLIGATIONS.json. -/

open Sys2Proof Sys2Proof.Machine

/-! Encoding -/

/-- R81, R82, R83: what the encoder writes, the decoder reads back, with every operand at every value it can take. -/
def Obligations.DecodeEncodeRoundTrip : Prop :=
  ∀ i : Instr, i.wellFormed = true → decode (encode i) = .ok i

/-- R83, R87: a decoded command is well-formed and its command word is the only one that decodes to it; `DATA` is kept where
the command uses it. -/
def Obligations.EncodeDecodeCanonical : Prop :=
  ∀ (t : Transfer) (i : Instr), decode t = .ok i →
    i.wellFormed = true ∧ (encode i).cmd = t.cmd ∧ (encode i).data = (if carriesData i then t.data else 0)

/-- R83: the decode procedure and the table of fixed bits agree, row by row. -/
def Obligations.DecodeMatchesOpcodeTable : Prop :=
  ∀ (t : Transfer) (row : OpcodeRow), row ∈ opcodeRows →
    (row.matchesWord t.cmd = true ↔ ∃ i, decode t = .ok i ∧ i.mnemonic = row.mnemonic)

/-- R224: ILLEGAL_COMMAND is answered for exactly these words; the fields are read from the word as a number (R81). -/
def Obligations.IllegalWordsExactly : Prop :=
  ∀ (s : State) (t : Transfer), s.regs.inSpec = true →
    let opc := t.cmd.toNat % 256
    let a := t.cmd.toNat / 2 ^ 8 % 256
    let b := t.cmd.toNat / 2 ^ 16 % 256
    let rsv := t.cmd.toNat / 2 ^ 24
    (∃ (u : State) (r : Response), runTransfer t s = .next u ∧ u.port = .responding r ∧ r.status = 0x03) ↔
      (rsv ≠ 0 ∨ 0x0A ≤ opc ∨
        ((opc = 0 ∨ opc = 6 ∨ opc = 8) ∧ (a ≠ 0 ∨ b ≠ 0)) ∨
        ((opc = 2 ∨ opc = 7) ∧ (7 < a ∨ b ≠ 0)) ∨
        ((opc = 3 ∨ opc = 4 ∨ opc = 9) ∧ (1 < a ∨ b ≠ 0)) ∨
        (opc = 5 ∧ (8 < a ∨ b ≠ 0)))

/-- R83: one word of each opcode, written out bit by bit from the patterns, for any `DATA`. -/
def Obligations.WrittenOutWordsDecode : Prop :=
  ∀ d : Word,
    decode ⟨0b00000000000000000000000000000000#32, d⟩ = .ok .nop ∧
    decode ⟨0b00000000010000000010000000000001#32, d⟩ = .ok (.config 32 64) ∧
    decode ⟨0b00000000000000000000010100000010#32, d⟩ = .ok (.loadKey 5 d) ∧
    decode ⟨0b00000000000000000000000100000011#32, d⟩ = .ok (.setSalt 1 d) ∧
    decode ⟨0b00000000000000000000000000000100#32, d⟩ = .ok (.setPersonal 0 d) ∧
    decode ⟨0b00000000000000000000100000000101#32, d⟩ = .ok (.update 8 d) ∧
    decode ⟨0b00000000000000000000000000000110#32, d⟩ = .ok .finalize ∧
    decode ⟨0b00000000000000000000011100000111#32, d⟩ = .ok (.readDigest 7) ∧
    decode ⟨0b00000000000000000000000000001000#32, d⟩ = .ok .readStatus ∧
    decode ⟨0b00000000000000000000000100001001#32, d⟩ = .ok (.readCounter 1)

/-- U5, R83, R85: `DATA` of a command that ignores it, and lanes `N..7` of UPDATE's, make no difference. -/
def Obligations.IgnoredDataMakesNoDifference : Prop :=
  (∀ (c : BitVec 32) (d d' : Word) (i : Instr), decode ⟨c, d⟩ = .ok i → carriesData i = false →
    decode ⟨c, d'⟩ = .ok i) ∧
  (∀ (n : Fin 16) (d d' : Word) (s : State), (∀ j, j < n.val → byteLane d j = byteLane d' j) →
    exec (.update n d) s = exec (.update n d') s)

/-- R92: the assembler writes for a command's line the encoder's words, and a disassembled transfer assembles to one that
decodes alike. -/
def Obligations.AssemblerAgreesWithEncoder : Prop :=
  (∀ i : Instr, i.wellFormed = true → assemble (asmOf i) = some (encode i)) ∧
  (∀ t : Transfer, ∃ t', assemble (disassemble t) = some t' ∧ t'.cmd = t.cmd ∧ decode t' = decode t)

/-- R93: `UPDS s` is UPDATE commands of 1 to 8 bytes, all but the last of 8, that carry `s`. -/
def Obligations.UpdsCarriesTheString : Prop :=
  ∀ s : List Byte, ∃ us : List (Fin 16 × Word),
    expandUpds s = updateCommands us ∧ updateBytes us = s ∧ us.length = (s.length + 7) / 8 ∧
    (∀ u ∈ us, 1 ≤ u.1.val ∧ u.1.val ≤ 8) ∧ (∀ u ∈ us.dropLast, u.1.val = 8)

/-! The step and the port -/

/-- R14, R82: while the accepted transfer decodes to a command and there is no reset, the step is that command's execution
on the state with this step's sample used up; and the step of State.withFetchWord runs that word. -/
def Obligations.StepRunsDecodedCommand : Prop :=
  (∀ (s : State) (t : Transfer) (i : Instr), s.port = .executing t → s.sample.reset = false → decode t = .ok i →
    step s = exec i { s with inputs := s.inputs.tail }) ∧
  (∀ (s : State) (nbits w : Nat) (i : Instr), decodeTableWord nbits w = some i →
    step (s.withFetchWord nbits w)
      = exec i { s with port := .executing (tableTransfer nbits w), inputs := s.inputs.tail })

/-- R88: a word that matches no row of R83 has no effect on the registers and answers `(ILLEGAL_COMMAND, 0)`. -/
def Obligations.UnmatchedWordIsIllegal : Prop :=
  ∀ (s : State) (t : Transfer), s.port = .executing t → s.sample.reset = false → s.regs.inSpec = true →
    (∀ row ∈ opcodeRows, row.matchesWord t.cmd = false) →
    step s = .next { regs := s.regs, port := .responding { status := 0x03, rdata := 0 }, inputs := s.inputs.tail }

/-- R250, R251: reset wins over everything, in every state: each register takes its reset value, a command in execution or a
pending response is gone. That a reset is taken also where `OFF > 128` or `PH = 3`, whose behaviour R41 leaves undefined, is
the model's reading (log 6, DEDUCED). -/
def Obligations.ResetWinsOverEverything : Prop :=
  ∀ s : State, s.sample.reset = true → ∃ t, step s = .next t ∧ t.port = .idle ∧ t.inputs = s.inputs.tail ∧
    (∀ i : Fin 8, t.regs.h[i] = 0) ∧ t.regs.t0 = 0 ∧ t.regs.t1 = 0 ∧ (∀ p : Fin 128, t.regs.buf[p] = 0) ∧
    t.regs.off = 0 ∧ t.regs.outlen = 0 ∧ t.regs.keylen = 0 ∧ (∀ p : Fin 64, t.regs.key[p] = 0) ∧
    t.regs.ph = .uncfg ∧ (∀ i : Fin 2, t.regs.salt[i] = 0) ∧ t.regs.saltp = false ∧
    (∀ i : Fin 2, t.regs.pers[i] = 0) ∧ t.regs.persp = false ∧ (∀ i : Fin 8, t.regs.dig[i] = 0) ∧ t.regs.digv = false

/-- R255: with no reset, an idle port accepts the command offered, sampling it, and holds all state when none is; while a
command is outstanding no other is accepted; a pending response is stable until taken, and the port is idle from then on.
(That it is not idle in the very cycle of the taking is the model's reading, log 4.) -/
def Obligations.PortHandshake : Prop :=
  ∀ s : State, s.sample.reset = false → s.regs.inSpec = true →
    (s.cmdReady = true ∨ s.rspValid = true → ∃ t, step s = .next t ∧ t.regs = s.regs ∧ t.inputs = s.inputs.tail ∧
      (∀ c, s.cmdReady = true → s.sample.command = some c → t.port = .executing c) ∧
      (s.cmdReady = true → s.sample.command = none → t.port = .idle) ∧
      (s.rspValid = true → s.sample.rspReady = true → t.port = .idle) ∧
      (s.rspValid = true → s.sample.rspReady = false → t.port = s.port)) ∧
    (s.cmdReady = true → s.rspValid = false) ∧
    (State.reset.cmdReady = true ∧ State.reset.rspValid = false)

/-- R256, R257: from an idle port a command offered is accepted, executed and answered once: after two steps its response is
pending, and once the response is taken the port is idle with the command's writes made, whatever else the host offers
meanwhile. -/
def Obligations.OneResponsePerCommand : Prop :=
  ∀ (s t : State) (i : Instr) (x0 x1 x2 : PortInput) (rest : List PortInput),
    s.port = .idle → s.inputs = x0 :: x1 :: x2 :: rest → i.wellFormed = true → x0.command = some (encode i) →
    x0.reset = false → x1.reset = false → x2.reset = false → x2.rspReady = true →
    exec i { s with inputs := x2 :: rest } = .next t →
    core.run 2 s = .next t ∧ (∃ r, t.port = .responding r) ∧
    core.run 3 s = .next { regs := t.regs, port := .idle, inputs := rest }

/-! What each command does -/

/-- R190: NOP answers `(OK, 0)` in every phase and writes nothing. -/
def Obligations.NopOnlyAnswers : Prop :=
  ∀ s : State, s.regs.inSpec = true →
    exec .nop s = .next { s with port := .responding { status := 0x00, rdata := 0 } }

/-- R37, R191: READ_STATUS answers the status word, field by field, every other bit 0, and writes nothing. -/
def Obligations.ReadStatusReturnsFields : Prop :=
  ∀ s : State, s.regs.inSpec = true → ∃ (t : State) (w : Word), exec .readStatus s = .next t ∧ t.regs = s.regs ∧
    Answers s t 0x00 w ∧
    w.toNat % 4 = (match s.regs.ph with | .uncfg => 0 | .ready => 1 | .active => 2 | .unreachable3 => 3) ∧
    w.getLsbD 2 = s.regs.digv ∧ w.getLsbD 3 = s.regs.saltp ∧ w.getLsbD 4 = s.regs.persp ∧
    w.toNat / 2 ^ 5 % 2 ^ 3 = 0 ∧
    w.toNat / 2 ^ 8 % 2 ^ 8 = s.regs.outlen.toNat ∧ w.toNat / 2 ^ 16 % 2 ^ 8 = s.regs.keylen.toNat ∧
    w.toNat / 2 ^ 24 % 2 ^ 8 = 0 ∧
    w.toNat / 2 ^ 32 % 2 ^ 8 = s.regs.off.toNat ∧ w.toNat / 2 ^ 40 = 0

/-- R192: READ_COUNTER 0 answers `T0`, READ_COUNTER 1 answers `T1`; together they are the counter; nothing is written. -/
def Obligations.ReadCounterReturnsCounter : Prop :=
  ∀ s : State, s.regs.inSpec = true → ∃ (t u : State) (lo hi : Word),
    exec (.readCounter 0) s = .next t ∧ t.regs = s.regs ∧ Answers s t 0x00 lo ∧ lo = s.regs.t0 ∧
    exec (.readCounter 1) s = .next u ∧ u.regs = s.regs ∧ Answers s u 0x00 hi ∧ hi = s.regs.t1 ∧
    hi.toNat * 2 ^ 64 + lo.toNat = s.regs.count

/-- R165, R64: READ_DIGEST `i` answers the latched word, lane `j` the digest byte `8i+j`, when a digest is latched, and
SEQUENCE_ERROR when none is; nothing is written. -/
def Obligations.ReadDigestReturnsLatch : Prop :=
  ∀ (s : State) (i : Fin 8), s.regs.inSpec = true →
    (s.regs.digv = true → ∃ (t : State) (w : Word), exec (.readDigest i) s = .next t ∧ t.regs = s.regs ∧
      Answers s t 0x00 w ∧ w = s.regs.dig[i] ∧
      ∀ (j : Fin 8) (k : Fin 64), k.val = 8 * i.val + j.val → byteLane w j.val = digestByte s.regs.dig k) ∧
    (s.regs.digv = false → exec (.readDigest i) s = .next { s with port := .responding { status := 0x02, rdata := 0 } })

/-- R184, R259: a CONFIG with lengths in range, in any phase, discards the current engine: the lengths and the phase READY
are set and every other register is 0. -/
def Obligations.ConfigStartsFreshEngine : Prop :=
  ∀ (s : State) (a b : Byte), s.regs.inSpec = true → 1 ≤ a.toNat → a.toNat ≤ 64 → b.toNat ≤ 64 →
    ∃ t, exec (.config a b) s = .next t ∧ Answers s t 0x00 0 ∧
      t.regs.outlen = a ∧ t.regs.keylen = b ∧ t.regs.ph = .ready ∧
      (∀ i : Fin 8, t.regs.h[i] = 0) ∧ t.regs.t0 = 0 ∧ t.regs.t1 = 0 ∧ (∀ p : Fin 128, t.regs.buf[p] = 0) ∧
      t.regs.off = 0 ∧ (∀ p : Fin 64, t.regs.key[p] = 0) ∧
      (∀ i : Fin 2, t.regs.salt[i] = 0) ∧ t.regs.saltp = false ∧ (∀ i : Fin 2, t.regs.pers[i] = 0) ∧
      t.regs.persp = false ∧ (∀ i : Fin 8, t.regs.dig[i] = 0) ∧ t.regs.digv = false

/-- R222, R184, R185: CONFIG_ERROR is answered by CONFIG alone, exactly when `A < 1`, `A > 64` or `B > 64`, and then nothing
is changed. -/
def Obligations.ConfigErrorExactly : Prop :=
  (∀ (s t : State) (i : Instr) (r : Response), exec i s = .next t → t.port = .responding r →
    (r.status = 0x01 ↔ ∃ a b : Byte, i = .config a b ∧ (a.toNat < 1 ∨ 64 < a.toNat ∨ 64 < b.toNat))) ∧
  (∀ (s : State) (a b : Byte), s.regs.inSpec = true → (a.toNat < 1 ∨ 64 < a.toNat ∨ 64 < b.toNat) →
    exec (.config a b) s = .next { s with port := .responding { status := 0x01, rdata := 0 } })

/-- R186, R86: in READY, LOAD_KEY `k` stores lane `j` of `DATA` as key byte `8k+j`; every other key byte and every other
register is unchanged. -/
def Obligations.LoadKeyWritesEightBytes : Prop :=
  ∀ (s : State) (k : Fin 8) (d : Word), s.regs.inSpec = true → s.regs.ph = .ready →
    ∃ t, exec (.loadKey k d) s = .next t ∧ Answers s t 0x00 0 ∧ { t.regs with key := s.regs.key } = s.regs ∧
      (∀ (j : Fin 8) (p : Fin 64), p.val = 8 * k.val + j.val → t.regs.key[p] = byteLane d j.val) ∧
      (∀ p : Fin 64, (p.val < 8 * k.val ∨ 8 * k.val + 8 ≤ p.val) → t.regs.key[p] = s.regs.key[p])

/-- R187, R61, R64: in READY, SET_SALT `i` stores `DATA`, the little-endian word of its lanes, as `SALT[i]` and sets `SALTP`;
the other half and every other register are unchanged. -/
def Obligations.SetSaltWritesHalf : Prop :=
  ∀ (s : State) (i : Fin 2) (d : Word), s.regs.inSpec = true → s.regs.ph = .ready →
    ∃ t, exec (.setSalt i d) s = .next t ∧ Answers s t 0x00 0 ∧ t.regs.saltp = true ∧
      { t.regs with salt := s.regs.salt, saltp := s.regs.saltp } = s.regs ∧
      (∀ j : Fin 2, t.regs.salt[j] = if j = i then le64 (fun l => byteLane d l.val) else s.regs.salt[j])

/-- R188, R61, R64: as SET_SALT, for the personalization. -/
def Obligations.SetPersonalWritesHalf : Prop :=
  ∀ (s : State) (i : Fin 2) (d : Word), s.regs.inSpec = true → s.regs.ph = .ready →
    ∃ t, exec (.setPersonal i d) s = .next t ∧ Answers s t 0x00 0 ∧ t.regs.persp = true ∧
      { t.regs with pers := s.regs.pers, persp := s.regs.persp } = s.regs ∧
      (∀ j : Fin 2, t.regs.pers[j] = if j = i then le64 (fun l => byteLane d l.val) else s.regs.pers[j])

/-- R223: SEQUENCE_ERROR is answered exactly in these cases. -/
def Obligations.SequenceErrorExactly : Prop :=
  ∀ (s t : State) (i : Instr) (r : Response), i.wellFormed = true → exec i s = .next t → t.port = .responding r →
    (r.status = 0x02 ↔
      ((∃ n d, i = .update n d) ∨ i = .finalize) ∧ s.regs.ph = .uncfg ∨
      ((∃ k d, i = .loadKey k d) ∨ (∃ k d, i = .setSalt k d) ∨ (∃ k d, i = .setPersonal k d)) ∧ s.regs.ph ≠ .ready ∨
      (∃ k, i = .readDigest k) ∧ s.regs.digv = false)

/-- R189, R260: outside READY the three parameter commands answer SEQUENCE_ERROR and change nothing. -/
def Obligations.ParametersLockedOutsideReady : Prop :=
  ∀ (s : State) (k : Fin 8) (i : Fin 2) (d : Word), s.regs.inSpec = true → s.regs.ph ≠ .ready →
    exec (.loadKey k d) s = .next { s with port := .responding { status := 0x02, rdata := 0 } } ∧
    exec (.setSalt i d) s = .next { s with port := .responding { status := 0x02, rdata := 0 } } ∧
    exec (.setPersonal i d) s = .next { s with port := .responding { status := 0x02, rdata := 0 } }

/-- R144: UPDATE with `N = 0` in READY or ACTIVE answers OK and writes nothing; it is no first use. -/
def Obligations.EmptyUpdateIsNoOp : Prop :=
  ∀ (s : State) (d : Word), s.regs.inSpec = true → s.regs.ph ≠ .uncfg →
    exec (.update 0 d) s = .next { s with port := .responding { status := 0x00, rdata := 0 } }

/-- R140, R141, R142: an UPDATE whose bytes fit the buffer stores them from `OFF` on and compresses nothing; in READY INIT runs
first. Every register but `BUF` and `OFF` is as INIT, or the state before, left it. -/
def Obligations.UpdateFillsBuffer : Prop :=
  ∀ (s : State) (n : Fin 16) (d : Word) (r : Regs), s.regs.inSpec = true → s.regs.ph ≠ .uncfg →
    (s.regs.ph = .ready → s.regs.keyFits = true) → 1 ≤ n.val → n.val ≤ 8 →
    r = (if s.regs.ph = .ready then { s.regs.init with ph := .active } else s.regs) → r.off.toNat + n.val ≤ 128 →
    ∃ t, exec (.update n d) s = .next t ∧ Answers s t 0x00 0 ∧
      { t.regs with buf := r.buf, off := r.off } = r ∧ t.regs.off.toNat = r.off.toNat + n.val ∧
      ∀ p : Fin 128, t.regs.buf[p] =
        if r.off.toNat ≤ p.val ∧ p.val < r.off.toNat + n.val then byteLane d (p.val - r.off.toNat) else r.buf[p]

/-- R140, R141, R146, R148: an UPDATE whose bytes overflow the buffer completes the block, counts 128 bytes, compresses the
block once without the final flag and stores the remaining bytes from 0 on; the rest of `BUF` keeps the block. -/
def Obligations.UpdateCompressesFullBlock : Prop :=
  ∀ (s : State) (n : Fin 16) (d : Word) (r : Regs) (block : Vector Byte 128), s.regs.inSpec = true →
    s.regs.ph ≠ .uncfg → (s.regs.ph = .ready → s.regs.keyFits = true) → n.val ≤ 8 →
    r = (if s.regs.ph = .ready then { s.regs.init with ph := .active } else s.regs) → 128 < r.off.toNat + n.val →
    (∀ p : Fin 128, block[p] = if r.off.toNat ≤ p.val then byteLane d (p.val - r.off.toNat) else r.buf[p]) →
    ∃ t, exec (.update n d) s = .next t ∧ Answers s t 0x00 0 ∧
      t.regs.count = (r.count + 128) % 2 ^ 128 ∧
      t.regs.h = compress r.h block t.regs.t0 t.regs.t1 false ∧
      t.regs.off.toNat = r.off.toNat + n.val - 128 ∧
      (∀ p : Fin 128, t.regs.buf[p] =
        if p.val < r.off.toNat + n.val - 128 then byteLane d (128 - r.off.toNat + p.val) else block[p]) ∧
      { t.regs with h := r.h, t0 := r.t0, t1 := r.t1, buf := r.buf, off := r.off } = r

/-- R143: after an UPDATE with `N >= 1` the buffer holds 1 to 128 bytes: the last block, full or not, is withheld. -/
def Obligations.UpdateWithholdsLastBlock : Prop :=
  ∀ (s t : State) (n : Fin 16) (d : Word), s.regs.ph ≠ .uncfg → 1 ≤ n.val → n.val ≤ 8 →
    exec (.update n d) s = .next t → 1 ≤ t.regs.off.toNat ∧ t.regs.off.toNat ≤ 128

/-- R149: counter and offset together count the bytes absorbed since INIT, plus 128 for a key block (modulo 2^128, R130);
a single UPDATE's part of it. -/
def Obligations.CounterAndOffsetCountBytes : Prop :=
  ∀ (s t : State) (n : Fin 16) (d : Word), 1 ≤ n.val → n.val ≤ 8 → exec (.update n d) s = .next t →
    (s.regs.ph = .ready →
      t.regs.count + t.regs.off.toNat = (if s.regs.keylen = 0 then 0 else 128) + n.val) ∧
    (s.regs.ph = .active →
      (t.regs.count + t.regs.off.toNat) % 2 ^ 128 = (s.regs.count + s.regs.off.toNat + n.val) % 2 ^ 128)

/-- R180, R181, R182: INIT, word by word and byte by byte, with the registers it leaves alone. -/
def Obligations.InitBuildsBaseline : Prop :=
  ∀ r : Regs, r.keyFits = true →
    r.init.h[0] = iv[0] ^^^ BitVec.ofNat 64 (0x01010000 ||| r.keylen.toNat * 2 ^ 8 ||| r.outlen.toNat) ∧
    r.init.h[1] = iv[1] ∧ r.init.h[2] = iv[2] ∧ r.init.h[3] = iv[3] ∧
    r.init.h[4] = (if r.saltp then iv[4] ^^^ r.salt[0] else iv[4]) ∧
    r.init.h[5] = (if r.saltp then iv[5] ^^^ r.salt[1] else iv[5]) ∧
    r.init.h[6] = (if r.persp then iv[6] ^^^ r.pers[0] else iv[6]) ∧
    r.init.h[7] = (if r.persp then iv[7] ^^^ r.pers[1] else iv[7]) ∧
    r.init.t0 = 0 ∧ r.init.t1 = 0 ∧
    (∀ (p : Fin 128) (q : Fin 64), p.val = q.val → q.val < r.keylen.toNat → r.init.buf[p] = r.key[q]) ∧
    (∀ p : Fin 128, r.keylen.toNat ≤ p.val → r.init.buf[p] = 0) ∧
    r.init.off.toNat = (if r.keylen.toNat = 0 then 0 else 128) ∧
    { r.init with h := r.h, t0 := r.t0, t1 := r.t1, buf := r.buf, off := r.off } = r

/-- R160 to R164: FINALIZE outside UNCFG counts the pending bytes, pads the block with zeros, compresses it with the final
flag, latches the digest truncated to `OUTLEN`, and leaves the baseline in phase ACTIVE; the parameters are unchanged. -/
def Obligations.FinalizeLatchesDigest : Prop :=
  ∀ (s : State) (r c : Regs) (block : Vector Byte 128), s.regs.inSpec = true → s.regs.keyFits = true →
    s.regs.ph ≠ .uncfg → r = (if s.regs.ph = .ready then s.regs.init else s.regs) →
    c = r.ctrInc r.off → (∀ p : Fin 128, block[p] = if p.val < r.off.toNat then r.buf[p] else 0) →
    ∃ t, exec .finalize s = .next t ∧ Answers s t 0x00 0 ∧ t.regs.digv = true ∧
      (∀ (i j : Fin 8) (k : Fin 64), k.val = 8 * i.val + j.val → digestByte t.regs.dig k =
        if k.val < s.regs.outlen.toNat then byteLane (compress r.h block c.t0 c.t1 true)[i] j.val else 0) ∧
      t.regs = { s.regs.init with ph := .active, dig := t.regs.dig, digv := true }

/-- R166, R167, R172: with no message byte absorbed, FINALIZE compresses the zero-padded key block with the count 128, or,
without a key, an all-zero block with the count 0, as the final block on the baseline; in READY, and in ACTIVE at the
baseline (as right after a FINALIZE). -/
def Obligations.FinalizeOfEmptyMessage : Prop :=
  ∀ (s : State) (block : Vector Byte 128), s.regs.inSpec = true → s.regs.keyFits = true →
    (s.regs.ph = .ready ∨ (s.regs.ph = .active ∧ s.regs = s.regs.init)) →
    (∀ (p : Fin 128) (q : Fin 64), p.val = q.val → q.val < s.regs.keylen.toNat → block[p] = s.regs.key[q]) →
    (∀ p : Fin 128, s.regs.keylen.toNat ≤ p.val → block[p] = 0) →
    ∃ t, exec .finalize s = .next t ∧ Answers s t 0x00 0 ∧ t.regs.digv = true ∧
      t.regs.dig = digestWords s.regs.outlen
        (compress s.regs.init.h block (if s.regs.keylen.toNat = 0 then 0 else 128) 0 true)

/-- R237: once configured, every correctly encoded UPDATE and FINALIZE answers OK. -/
def Obligations.ConfiguredCommandsAnswerOk : Prop :=
  ∀ (s : State) (i : Instr), s.regs.inSpec = true → s.regs.keyFits = true → s.regs.ph ≠ .uncfg → i.wellFormed = true →
    ((∃ n d, i = .update n d) ∨ i = .finalize) → ∃ t, exec i s = .next t ∧ Answers s t 0x00 0

/-! Rules about every command -/

/-- R195: the status and the phase after every command are those of the phase table. -/
def Obligations.PhaseTableHolds : Prop :=
  ∀ (s t : State) (i : Instr), exec i s = .next t → ∃ rdata,
    Answers s t (match expectedStatus i s.regs with
      | .ok => 0x00 | .configError => 0x01 | .sequenceError => 0x02 | .illegalCommand => 0x03) rdata ∧
    t.regs.ph = (if expectedStatus i s.regs = .ok then expectedPhase i s.regs else s.regs.ph)

/-- R221, R228: an error answer makes no change at all and carries 0, for every transfer, illegal words included. -/
def Obligations.ErrorsChangeNothing : Prop :=
  ∀ (s t : State) (x : Transfer) (r : Response), runTransfer x s = .next t → t.port = .responding r →
    r.status ≠ 0x00 → t.regs = s.regs ∧ r.rdata = 0

/-- R91: `RDATA` is 0 in every response but the OK responses of READ_DIGEST, READ_STATUS and READ_COUNTER, which return the
value R83 names. -/
def Obligations.ResultDataZeroExceptReads : Prop :=
  ∀ (s t : State) (x : Transfer) (r : Response), runTransfer x s = .next t → t.port = .responding r →
    (r.rdata = 0 ∧ ∀ i, decode x = .ok i → r.status = 0x00 → i.mnemonic ∉ ["READ_DIGEST", "READ_STATUS", "READ_COUNTER"]) ∨
    (r.status = 0x00 ∧
      ((∃ k, decode x = .ok (.readDigest k) ∧ r.rdata = s.regs.dig[k]) ∨
       (decode x = .ok .readStatus ∧ r.rdata = statusWord s.regs) ∨
       (decode x = .ok (.readCounter 0) ∧ r.rdata = s.regs.t0) ∨
       (decode x = .ok (.readCounter 1) ∧ r.rdata = s.regs.t1)))

/-- R38: which commands write which registers; what a command does not write it leaves unchanged. -/
def Obligations.CommandWriteMatrix : Prop :=
  ∀ (s t : State) (i : Instr), exec i s = .next t → t.inputs = s.inputs ∧
    (i.mnemonic ∉ ["CONFIG", "UPDATE", "FINALIZE"] →
      t.regs.h = s.regs.h ∧ t.regs.t0 = s.regs.t0 ∧ t.regs.t1 = s.regs.t1 ∧ t.regs.buf = s.regs.buf ∧
      t.regs.off = s.regs.off ∧ t.regs.ph = s.regs.ph) ∧
    (i.mnemonic ∉ ["CONFIG"] → t.regs.outlen = s.regs.outlen ∧ t.regs.keylen = s.regs.keylen) ∧
    (i.mnemonic ∉ ["CONFIG", "LOAD_KEY"] → t.regs.key = s.regs.key) ∧
    (i.mnemonic ∉ ["CONFIG", "SET_SALT"] → t.regs.salt = s.regs.salt ∧ t.regs.saltp = s.regs.saltp) ∧
    (i.mnemonic ∉ ["CONFIG", "SET_PERSONAL"] → t.regs.pers = s.regs.pers ∧ t.regs.persp = s.regs.persp) ∧
    (i.mnemonic ∉ ["CONFIG", "FINALIZE"] → t.regs.dig = s.regs.dig ∧ t.regs.digv = s.regs.digv)

/-- R69: the read commands write no register, and repeating one at once returns the same response. -/
def Obligations.ReadCommandsArePure : Prop :=
  ∀ (s t : State) (i : Instr), i.mnemonic ∈ ["READ_DIGEST", "READ_STATUS", "READ_COUNTER"] → exec i s = .next t →
    t.regs = s.regs ∧ exec i t = .next t

/-- R170: the digest latch keeps its value until the next FINALIZE, the next successful CONFIG or a reset: through every
other step, whatever the port does. -/
def Obligations.DigestLatchKept : Prop :=
  ∀ s t : State, step s = .next t → s.sample.reset = false →
    (∀ x i, s.port = .executing x → decode x = .ok i → i.mnemonic ∈ ["FINALIZE", "CONFIG"] →
      expectedStatus i s.regs ≠ .ok) →
    t.regs.dig = s.regs.dig ∧ t.regs.digv = s.regs.digv

/-- R41: a state with `OFF > 128` or `PH = 3` is a fault, never a value, in every command and in every step that is no reset.
R41 does not list the steps: that idle and responding steps fault too, and that a reset does not (R251), is the model's
reading (log 6, DEDUCED). -/
def Obligations.UnreachableStatesFault : Prop :=
  (∀ (s : State) (i : Instr), s.regs.inSpec = false → ∃ f, exec i s = .fault f) ∧
  (∀ s : State, s.regs.inSpec = false → s.sample.reset = false → ∃ f, step s = .fault f)

/-- The model's own choice (log 1), not a rule: where INIT would copy key bytes beyond the key storage (`KEYLEN > 64`, which
no run reaches), FINALIZE, and an UPDATE that is the first use, fault; no other command does. -/
def Obligations.KeyLengthBeyondStorageFaults : Prop :=
  ∀ (s : State) (i : Instr), s.regs.inSpec = true → s.regs.keyFits = false →
    (exec i s = .fault .keyLengthOutOfRange ↔
      (i = .finalize ∧ s.regs.ph ≠ .uncfg) ∨ (∃ n d, i = .update n d ∧ 1 ≤ n.val ∧ n.val ≤ 8) ∧ s.regs.ph = .ready)

/-- R231, R235, D23: the response of a command depends on `H`, `BUF`, `KEY`, `SALT` and `PERS` in no way. -/
def Obligations.ResponsesHideSecrets : Prop :=
  ∀ (s s' t t' : State) (i : Instr), s.regs.observable = s'.regs.observable → exec i s = .next t →
    exec i s' = .next t' → t.response = t'.response

/-- R186, R194, U5: key bytes at positions `>= KEYLEN` are stored but never used: two states that differ only in them answer
every command alike and go on to differ only in them. -/
def Obligations.UnusedKeyBytesIgnored : Prop :=
  ∀ (s s' t : State) (i : Instr), { s'.regs with key := s.regs.key } = s.regs →
    s'.port = s.port → s'.inputs = s.inputs →
    (∀ p : Fin 64, p.val < s.regs.keylen.toNat → s'.regs.key[p] = s.regs.key[p]) → exec i s = .next t →
    ∃ t', exec i s' = .next t' ∧ { t'.regs with key := t.regs.key } = t.regs ∧ t'.port = t.port ∧ t'.inputs = t.inputs ∧
      ∀ p : Fin 64, p.val < t.regs.keylen.toNat → t'.regs.key[p] = t.regs.key[p]

/-- R193: a salt (personalization) of sixteen zero bytes gives the same digest as none: from registers that differ only in
`SALTP` (`PERSP`) with the words 0, any UPDATEs and a FINALIZE latch the same digest. -/
def Obligations.ZeroSaltGivesSameDigest : Prop :=
  ∀ (s s' t t' : State) (us : List (Fin 16 × Word)) (rs rs' : List Response),
    { s'.regs with saltp := s.regs.saltp, persp := s.regs.persp } = s.regs →
    (s.regs.saltp = s'.regs.saltp ∨ s.regs.salt = Vector.replicate 2 0) →
    (s.regs.persp = s'.regs.persp ∨ s.regs.pers = Vector.replicate 2 0) →
    runCommands (updateCommands us ++ [.finalize]) s = some (t, rs) →
    runCommands (updateCommands us ++ [.finalize]) s' = some (t', rs') → t.regs.dig = t'.regs.dig ∧ rs = rs'

/-! The algorithm's parts -/

/-- R10: rotation right: bit `i` of the result is bit `(i + n) mod 64` of the word. -/
def Obligations.RotrMovesBits : Prop :=
  ∀ (w : Word) (n i : Nat), 0 < n → n < 64 → i < 64 → (rotr w n).getLsbD i = w.getLsbD ((i + n) % 64)

/-- R103: for four distinct slots G writes the scalar sequence's values to them and touches no other slot. -/
def Obligations.MixTouchesNamedSlots : Prop :=
  ∀ (v : Vector Word 16) (q : Slots) (x y a1 d1 c1 b1 a2 d2 c2 b2 : Word), [q.a, q.b, q.c, q.d].Nodup →
    a1 = v[q.a] + v[q.b] + x → d1 = rotr (v[q.d] ^^^ a1) 32 → c1 = v[q.c] + d1 → b1 = rotr (v[q.b] ^^^ c1) 24 →
    a2 = a1 + b1 + y → d2 = rotr (d1 ^^^ a2) 16 → c2 = c1 + d2 → b2 = rotr (b1 ^^^ c2) 63 →
    (mixG v q x y)[q.a] = a2 ∧ (mixG v q x y)[q.b] = b2 ∧ (mixG v q x y)[q.c] = c2 ∧ (mixG v q x y)[q.d] = d2 ∧
    ∀ p : Fin 16, p ∉ [q.a, q.b, q.c, q.d] → (mixG v q x y)[p] = v[p]

/-- R107: for fixed `x`, `y` G is a bijection (on the working vector, its four slots distinct), and ROUND is one for fixed
`M` and `r`. -/
def Obligations.MixingIsBijective : Prop :=
  (∀ (q : Slots) (x y : Word), [q.a, q.b, q.c, q.d].Nodup → Function.Bijective fun v => mixG v q x y) ∧
  (∀ (m : Vector Word 16) (r : Fin 12), Function.Bijective fun v => mixRound m v r)

/-- R106: the four column applications of a round commute with each other, as do the four diagonal ones. -/
def Obligations.SameKindMixingCommutes : Prop :=
  ∀ (m v : Vector Word 16) (r : Fin 12) (i j : Fin 8), (i.val < 4 ↔ j.val < 4) →
    mixStep m r (mixStep m r v i) j = mixStep m r (mixStep m r v j) i

/-- R128, R130: CTR_INC adds the amount to the 128-bit counter modulo 2^128 and writes no other register. -/
def Obligations.CounterAddsModulo : Prop :=
  ∀ (r : Regs) (amount : Byte), amount.toNat ≤ 128 →
    (r.ctrInc amount).count = (r.count + amount.toNat) % 2 ^ 128 ∧
    { r.ctrInc amount with t0 := r.t0, t1 := r.t1 } = r

/-- R148, R263: one UPDATE evaluates F at most once, and exactly once when its bytes do not all fit the buffer. -/
def Obligations.UpdateCompressesAtMostOnce : Prop :=
  ∀ (r : Regs) (n : Fin 16) (d : Word), r.inSpec = true →
    evaluations (.update n d) r ≤ 1 ∧
    (1 ≤ n.val → n.val ≤ 8 → r.ph ≠ .uncfg →
      (evaluations (.update n d) r = 1 ↔ 128 < r.firstUse.off.toNat + n.val))

/-! Invariants -/

/-- R40, R39: the reset state has the invariants. -/
def Obligations.ResetSatisfiesInvariants : Prop :=
  State.reset.Inv ∧ State.reset.port = .idle

/-- R39: every step keeps the invariants I1 to I8 and R195's. -/
def Obligations.StepKeepsInvariants : Prop :=
  ∀ s t : State, s.Inv → step s = .next t → t.Inv

/-- R39, R41, R257: a state with the invariants never faults and is never refused. -/
def Obligations.InvariantStatesNeverStop : Prop :=
  ∀ s : State, s.Inv → ∃ t, step s = .next t

/-! Headlines -/

/-- R145: chunking invariance: for a fixed state, UPDATE commands of 1 to 8 bytes whose lanes concatenate to the same string
leave the same registers, all of them. -/
def Obligations.ChunkingInvariance : Prop :=
  ∀ (s : State) (us vs : List (Fin 16 × Word)),
    (∀ u ∈ us, 1 ≤ u.1.val ∧ u.1.val ≤ 8) → (∀ v ∈ vs, 1 ≤ v.1.val ∧ v.1.val ≤ 8) → updateBytes us = updateBytes vs →
    (runCommands (updateCommands us) s).map (fun p => p.1.regs) = (runCommands (updateCommands vs) s).map (fun p => p.1.regs)

/-- R169, R172, W8: after a FINALIZE, UPDATEs and a FINALIZE latch the digest a freshly configured engine with the same
parameters latches for the same UPDATEs, and end in the same registers. -/
def Obligations.ReuseEqualsFreshEngine : Prop :=
  ∀ (s f t : State) (us : List (Fin 16 × Word)), s.regs.ph ≠ .uncfg → (∀ u ∈ us, u.1.val ≤ 8) → s.regs.inSpec = true →
    s.regs.keyFits = true →
    f.regs = { Regs.configured s.regs.outlen s.regs.keylen with
      key := s.regs.key, salt := s.regs.salt, saltp := s.regs.saltp, pers := s.regs.pers, persp := s.regs.persp } →
    exec .finalize s = .next t →
    ∃ (a b : State) (ra rb : List Response), runCommands (updateCommands us ++ [.finalize]) t = some (a, ra) ∧
      runCommands (updateCommands us ++ [.finalize]) f = some (b, rb) ∧ a.regs = b.regs ∧ ra = rb

/-- R1, R132, R146, R163, R254: whatever state the block is in, the command sequence of a complete message computation (any
key of at most 64 bytes, salt and personalization of 16 bytes or none, any split of the message into UPDATEs) answers OK
throughout and latches BLAKE2b of the message, which RDDIGS then reads. -/
def Obligations.SessionComputesBlake2b : Prop :=
  ∀ (s : State) (n : Nat) (key msg : List Byte) (salt pers : Option (List Byte)) (us : List (Fin 16 × Word)),
    s.regs.inSpec = true → 1 ≤ n → n ≤ 64 → key.length ≤ 64 → (∀ x, salt = some x → x.length = 16) →
    (∀ x, pers = some x → x.length = 16) → (∀ u ∈ us, u.1.val ≤ 8) → updateBytes us = msg →
    ∃ (t u : State) (rs ws : List Response),
      runCommands (messageCommands n key salt pers (updateCommands us)) s = some (t, rs) ∧
      (∀ r ∈ rs, r = { status := 0x00, rdata := 0 }) ∧
      runCommands (expandRddigs n) t = some (u, ws) ∧ u.regs = t.regs ∧ (∀ r ∈ ws, r.status = 0x00) ∧
      digestOfWords n (ws.map fun r => r.rdata) = referenceDigest n key msg salt pers
end

