-- ==== Sys2Proof/Laws/State.lean ====
section
/-! SUPPORT. One lemma per field per update of the state, each true by rfl, so that no proof unfolds a record update. -/

namespace Sys2Proof.Machine

/-! ctrInc -/

@[simp] theorem Regs.ctrInc_h (r : Regs) (a : Byte) : (r.ctrInc a).h = r.h := rfl
@[simp] theorem Regs.ctrInc_t0 (r : Regs) (a : Byte) : (r.ctrInc a).t0 = r.t0 + a.setWidth 64 := rfl
@[simp] theorem Regs.ctrInc_buf (r : Regs) (a : Byte) : (r.ctrInc a).buf = r.buf := rfl
@[simp] theorem Regs.ctrInc_off (r : Regs) (a : Byte) : (r.ctrInc a).off = r.off := rfl
@[simp] theorem Regs.ctrInc_outlen (r : Regs) (a : Byte) : (r.ctrInc a).outlen = r.outlen := rfl
@[simp] theorem Regs.ctrInc_keylen (r : Regs) (a : Byte) : (r.ctrInc a).keylen = r.keylen := rfl
@[simp] theorem Regs.ctrInc_key (r : Regs) (a : Byte) : (r.ctrInc a).key = r.key := rfl
@[simp] theorem Regs.ctrInc_ph (r : Regs) (a : Byte) : (r.ctrInc a).ph = r.ph := rfl
@[simp] theorem Regs.ctrInc_salt (r : Regs) (a : Byte) : (r.ctrInc a).salt = r.salt := rfl
@[simp] theorem Regs.ctrInc_saltp (r : Regs) (a : Byte) : (r.ctrInc a).saltp = r.saltp := rfl
@[simp] theorem Regs.ctrInc_pers (r : Regs) (a : Byte) : (r.ctrInc a).pers = r.pers := rfl
@[simp] theorem Regs.ctrInc_persp (r : Regs) (a : Byte) : (r.ctrInc a).persp = r.persp := rfl
@[simp] theorem Regs.ctrInc_dig (r : Regs) (a : Byte) : (r.ctrInc a).dig = r.dig := rfl
@[simp] theorem Regs.ctrInc_digv (r : Regs) (a : Byte) : (r.ctrInc a).digv = r.digv := rfl

/-! init -/

@[simp] theorem Regs.init_h (r : Regs) : r.init.h = r.baselineH := rfl
@[simp] theorem Regs.init_t0 (r : Regs) : r.init.t0 = 0 := rfl
@[simp] theorem Regs.init_t1 (r : Regs) : r.init.t1 = 0 := rfl
@[simp] theorem Regs.init_buf (r : Regs) : r.init.buf = r.baselineBuf := rfl
@[simp] theorem Regs.init_off (r : Regs) : r.init.off = if 0 < r.keylen.toNat then 128 else 0 := rfl
@[simp] theorem Regs.init_outlen (r : Regs) : r.init.outlen = r.outlen := rfl
@[simp] theorem Regs.init_keylen (r : Regs) : r.init.keylen = r.keylen := rfl
@[simp] theorem Regs.init_key (r : Regs) : r.init.key = r.key := rfl
@[simp] theorem Regs.init_ph (r : Regs) : r.init.ph = r.ph := rfl
@[simp] theorem Regs.init_salt (r : Regs) : r.init.salt = r.salt := rfl
@[simp] theorem Regs.init_saltp (r : Regs) : r.init.saltp = r.saltp := rfl
@[simp] theorem Regs.init_pers (r : Regs) : r.init.pers = r.pers := rfl
@[simp] theorem Regs.init_persp (r : Regs) : r.init.persp = r.persp := rfl
@[simp] theorem Regs.init_dig (r : Regs) : r.init.dig = r.dig := rfl
@[simp] theorem Regs.init_digv (r : Regs) : r.init.digv = r.digv := rfl

/-! flush -/

@[simp] theorem Regs.flush_h (r : Regs) : r.flush.h = compress r.h r.buf (r.ctrInc 128).t0 (r.ctrInc 128).t1 false := rfl
@[simp] theorem Regs.flush_t0 (r : Regs) : r.flush.t0 = (r.ctrInc 128).t0 := rfl
@[simp] theorem Regs.flush_t1 (r : Regs) : r.flush.t1 = (r.ctrInc 128).t1 := rfl
@[simp] theorem Regs.flush_buf (r : Regs) : r.flush.buf = r.buf := rfl
@[simp] theorem Regs.flush_off (r : Regs) : r.flush.off = 0 := rfl
@[simp] theorem Regs.flush_outlen (r : Regs) : r.flush.outlen = r.outlen := rfl
@[simp] theorem Regs.flush_keylen (r : Regs) : r.flush.keylen = r.keylen := rfl
@[simp] theorem Regs.flush_key (r : Regs) : r.flush.key = r.key := rfl
@[simp] theorem Regs.flush_ph (r : Regs) : r.flush.ph = r.ph := rfl
@[simp] theorem Regs.flush_salt (r : Regs) : r.flush.salt = r.salt := rfl
@[simp] theorem Regs.flush_saltp (r : Regs) : r.flush.saltp = r.saltp := rfl
@[simp] theorem Regs.flush_pers (r : Regs) : r.flush.pers = r.pers := rfl
@[simp] theorem Regs.flush_persp (r : Regs) : r.flush.persp = r.persp := rfl
@[simp] theorem Regs.flush_dig (r : Regs) : r.flush.dig = r.dig := rfl
@[simp] theorem Regs.flush_digv (r : Regs) : r.flush.digv = r.digv := rfl

/-! push -/

@[simp] theorem Regs.push_h (r : Regs) (b : Byte) : (r.push b).h = r.h := rfl
@[simp] theorem Regs.push_t0 (r : Regs) (b : Byte) : (r.push b).t0 = r.t0 := rfl
@[simp] theorem Regs.push_t1 (r : Regs) (b : Byte) : (r.push b).t1 = r.t1 := rfl
@[simp] theorem Regs.push_buf (r : Regs) (b : Byte) : (r.push b).buf = r.buf.setIfInBounds r.off.toNat b := rfl
@[simp] theorem Regs.push_off (r : Regs) (b : Byte) : (r.push b).off = r.off + 1 := rfl
@[simp] theorem Regs.push_outlen (r : Regs) (b : Byte) : (r.push b).outlen = r.outlen := rfl
@[simp] theorem Regs.push_keylen (r : Regs) (b : Byte) : (r.push b).keylen = r.keylen := rfl
@[simp] theorem Regs.push_key (r : Regs) (b : Byte) : (r.push b).key = r.key := rfl
@[simp] theorem Regs.push_ph (r : Regs) (b : Byte) : (r.push b).ph = r.ph := rfl
@[simp] theorem Regs.push_salt (r : Regs) (b : Byte) : (r.push b).salt = r.salt := rfl
@[simp] theorem Regs.push_saltp (r : Regs) (b : Byte) : (r.push b).saltp = r.saltp := rfl
@[simp] theorem Regs.push_pers (r : Regs) (b : Byte) : (r.push b).pers = r.pers := rfl
@[simp] theorem Regs.push_persp (r : Regs) (b : Byte) : (r.push b).persp = r.persp := rfl
@[simp] theorem Regs.push_dig (r : Regs) (b : Byte) : (r.push b).dig = r.dig := rfl
@[simp] theorem Regs.push_digv (r : Regs) (b : Byte) : (r.push b).digv = r.digv := rfl

/-! padded -/

@[simp] theorem Regs.padded_h (r : Regs) : r.padded.h = r.h := rfl
@[simp] theorem Regs.padded_t0 (r : Regs) : r.padded.t0 = (r.ctrInc r.off).t0 := rfl
@[simp] theorem Regs.padded_t1 (r : Regs) : r.padded.t1 = (r.ctrInc r.off).t1 := rfl
@[simp] theorem Regs.padded_buf (r : Regs) : r.padded.buf = zeroTail r.buf r.off := rfl
@[simp] theorem Regs.padded_off (r : Regs) : r.padded.off = r.off := rfl
@[simp] theorem Regs.padded_outlen (r : Regs) : r.padded.outlen = r.outlen := rfl
@[simp] theorem Regs.padded_keylen (r : Regs) : r.padded.keylen = r.keylen := rfl
@[simp] theorem Regs.padded_key (r : Regs) : r.padded.key = r.key := rfl
@[simp] theorem Regs.padded_ph (r : Regs) : r.padded.ph = r.ph := rfl
@[simp] theorem Regs.padded_salt (r : Regs) : r.padded.salt = r.salt := rfl
@[simp] theorem Regs.padded_saltp (r : Regs) : r.padded.saltp = r.saltp := rfl
@[simp] theorem Regs.padded_pers (r : Regs) : r.padded.pers = r.pers := rfl
@[simp] theorem Regs.padded_persp (r : Regs) : r.padded.persp = r.persp := rfl
@[simp] theorem Regs.padded_dig (r : Regs) : r.padded.dig = r.dig := rfl
@[simp] theorem Regs.padded_digv (r : Regs) : r.padded.digv = r.digv := rfl

/-! finalized -/

@[simp] theorem Regs.finalized_h (r : Regs) : r.finalized.h = r.baselineH := rfl
@[simp] theorem Regs.finalized_t0 (r : Regs) : r.finalized.t0 = 0 := rfl
@[simp] theorem Regs.finalized_t1 (r : Regs) : r.finalized.t1 = 0 := rfl
@[simp] theorem Regs.finalized_buf (r : Regs) : r.finalized.buf = r.baselineBuf := rfl
@[simp] theorem Regs.finalized_off (r : Regs) : r.finalized.off = if 0 < r.keylen.toNat then 128 else 0 := rfl
@[simp] theorem Regs.finalized_outlen (r : Regs) : r.finalized.outlen = r.outlen := rfl
@[simp] theorem Regs.finalized_keylen (r : Regs) : r.finalized.keylen = r.keylen := rfl
@[simp] theorem Regs.finalized_key (r : Regs) : r.finalized.key = r.key := rfl
@[simp] theorem Regs.finalized_ph (r : Regs) : r.finalized.ph = r.ph := rfl
@[simp] theorem Regs.finalized_salt (r : Regs) : r.finalized.salt = r.salt := rfl
@[simp] theorem Regs.finalized_saltp (r : Regs) : r.finalized.saltp = r.saltp := rfl
@[simp] theorem Regs.finalized_pers (r : Regs) : r.finalized.pers = r.pers := rfl
@[simp] theorem Regs.finalized_persp (r : Regs) : r.finalized.persp = r.persp := rfl
@[simp] theorem Regs.finalized_dig (r : Regs) : r.finalized.dig = digestWords r.outlen r.finalH := rfl
@[simp] theorem Regs.finalized_digv (r : Regs) : r.finalized.digv = true := rfl

/-! withKeyWord -/

@[simp] theorem Regs.withKeyWord_h (r : Regs) (k : Fin 8) (d : Word) : (r.withKeyWord k d).h = r.h := rfl
@[simp] theorem Regs.withKeyWord_t0 (r : Regs) (k : Fin 8) (d : Word) : (r.withKeyWord k d).t0 = r.t0 := rfl
@[simp] theorem Regs.withKeyWord_t1 (r : Regs) (k : Fin 8) (d : Word) : (r.withKeyWord k d).t1 = r.t1 := rfl
@[simp] theorem Regs.withKeyWord_buf (r : Regs) (k : Fin 8) (d : Word) : (r.withKeyWord k d).buf = r.buf := rfl
@[simp] theorem Regs.withKeyWord_off (r : Regs) (k : Fin 8) (d : Word) : (r.withKeyWord k d).off = r.off := rfl
@[simp] theorem Regs.withKeyWord_outlen (r : Regs) (k : Fin 8) (d : Word) : (r.withKeyWord k d).outlen = r.outlen := rfl
@[simp] theorem Regs.withKeyWord_keylen (r : Regs) (k : Fin 8) (d : Word) : (r.withKeyWord k d).keylen = r.keylen := rfl
@[simp] theorem Regs.withKeyWord_key (r : Regs) (k : Fin 8) (d : Word) : (r.withKeyWord k d).key = writeKeyWord r.key k d := rfl
@[simp] theorem Regs.withKeyWord_ph (r : Regs) (k : Fin 8) (d : Word) : (r.withKeyWord k d).ph = r.ph := rfl
@[simp] theorem Regs.withKeyWord_salt (r : Regs) (k : Fin 8) (d : Word) : (r.withKeyWord k d).salt = r.salt := rfl
@[simp] theorem Regs.withKeyWord_saltp (r : Regs) (k : Fin 8) (d : Word) : (r.withKeyWord k d).saltp = r.saltp := rfl
@[simp] theorem Regs.withKeyWord_pers (r : Regs) (k : Fin 8) (d : Word) : (r.withKeyWord k d).pers = r.pers := rfl
@[simp] theorem Regs.withKeyWord_persp (r : Regs) (k : Fin 8) (d : Word) : (r.withKeyWord k d).persp = r.persp := rfl
@[simp] theorem Regs.withKeyWord_dig (r : Regs) (k : Fin 8) (d : Word) : (r.withKeyWord k d).dig = r.dig := rfl
@[simp] theorem Regs.withKeyWord_digv (r : Regs) (k : Fin 8) (d : Word) : (r.withKeyWord k d).digv = r.digv := rfl

/-! withSaltWord -/

@[simp] theorem Regs.withSaltWord_h (r : Regs) (i : Fin 2) (d : Word) : (r.withSaltWord i d).h = r.h := rfl
@[simp] theorem Regs.withSaltWord_t0 (r : Regs) (i : Fin 2) (d : Word) : (r.withSaltWord i d).t0 = r.t0 := rfl
@[simp] theorem Regs.withSaltWord_t1 (r : Regs) (i : Fin 2) (d : Word) : (r.withSaltWord i d).t1 = r.t1 := rfl
@[simp] theorem Regs.withSaltWord_buf (r : Regs) (i : Fin 2) (d : Word) : (r.withSaltWord i d).buf = r.buf := rfl
@[simp] theorem Regs.withSaltWord_off (r : Regs) (i : Fin 2) (d : Word) : (r.withSaltWord i d).off = r.off := rfl
@[simp] theorem Regs.withSaltWord_outlen (r : Regs) (i : Fin 2) (d : Word) : (r.withSaltWord i d).outlen = r.outlen := rfl
@[simp] theorem Regs.withSaltWord_keylen (r : Regs) (i : Fin 2) (d : Word) : (r.withSaltWord i d).keylen = r.keylen := rfl
@[simp] theorem Regs.withSaltWord_key (r : Regs) (i : Fin 2) (d : Word) : (r.withSaltWord i d).key = r.key := rfl
@[simp] theorem Regs.withSaltWord_ph (r : Regs) (i : Fin 2) (d : Word) : (r.withSaltWord i d).ph = r.ph := rfl
@[simp] theorem Regs.withSaltWord_salt (r : Regs) (i : Fin 2) (d : Word) : (r.withSaltWord i d).salt = r.salt.set i d := rfl
@[simp] theorem Regs.withSaltWord_saltp (r : Regs) (i : Fin 2) (d : Word) : (r.withSaltWord i d).saltp = true := rfl
@[simp] theorem Regs.withSaltWord_pers (r : Regs) (i : Fin 2) (d : Word) : (r.withSaltWord i d).pers = r.pers := rfl
@[simp] theorem Regs.withSaltWord_persp (r : Regs) (i : Fin 2) (d : Word) : (r.withSaltWord i d).persp = r.persp := rfl
@[simp] theorem Regs.withSaltWord_dig (r : Regs) (i : Fin 2) (d : Word) : (r.withSaltWord i d).dig = r.dig := rfl
@[simp] theorem Regs.withSaltWord_digv (r : Regs) (i : Fin 2) (d : Word) : (r.withSaltWord i d).digv = r.digv := rfl

/-! withPersWord -/

@[simp] theorem Regs.withPersWord_h (r : Regs) (i : Fin 2) (d : Word) : (r.withPersWord i d).h = r.h := rfl
@[simp] theorem Regs.withPersWord_t0 (r : Regs) (i : Fin 2) (d : Word) : (r.withPersWord i d).t0 = r.t0 := rfl
@[simp] theorem Regs.withPersWord_t1 (r : Regs) (i : Fin 2) (d : Word) : (r.withPersWord i d).t1 = r.t1 := rfl
@[simp] theorem Regs.withPersWord_buf (r : Regs) (i : Fin 2) (d : Word) : (r.withPersWord i d).buf = r.buf := rfl
@[simp] theorem Regs.withPersWord_off (r : Regs) (i : Fin 2) (d : Word) : (r.withPersWord i d).off = r.off := rfl
@[simp] theorem Regs.withPersWord_outlen (r : Regs) (i : Fin 2) (d : Word) : (r.withPersWord i d).outlen = r.outlen := rfl
@[simp] theorem Regs.withPersWord_keylen (r : Regs) (i : Fin 2) (d : Word) : (r.withPersWord i d).keylen = r.keylen := rfl
@[simp] theorem Regs.withPersWord_key (r : Regs) (i : Fin 2) (d : Word) : (r.withPersWord i d).key = r.key := rfl
@[simp] theorem Regs.withPersWord_ph (r : Regs) (i : Fin 2) (d : Word) : (r.withPersWord i d).ph = r.ph := rfl
@[simp] theorem Regs.withPersWord_salt (r : Regs) (i : Fin 2) (d : Word) : (r.withPersWord i d).salt = r.salt := rfl
@[simp] theorem Regs.withPersWord_saltp (r : Regs) (i : Fin 2) (d : Word) : (r.withPersWord i d).saltp = r.saltp := rfl
@[simp] theorem Regs.withPersWord_pers (r : Regs) (i : Fin 2) (d : Word) : (r.withPersWord i d).pers = r.pers.set i d := rfl
@[simp] theorem Regs.withPersWord_persp (r : Regs) (i : Fin 2) (d : Word) : (r.withPersWord i d).persp = true := rfl
@[simp] theorem Regs.withPersWord_dig (r : Regs) (i : Fin 2) (d : Word) : (r.withPersWord i d).dig = r.dig := rfl
@[simp] theorem Regs.withPersWord_digv (r : Regs) (i : Fin 2) (d : Word) : (r.withPersWord i d).digv = r.digv := rfl

/-! The reset value of the configured engine's registers -/

@[simp] theorem Regs.configured_h (a b : Byte) : (Regs.configured a b).h = Regs.reset.h := rfl
@[simp] theorem Regs.configured_t0 (a b : Byte) : (Regs.configured a b).t0 = Regs.reset.t0 := rfl
@[simp] theorem Regs.configured_t1 (a b : Byte) : (Regs.configured a b).t1 = Regs.reset.t1 := rfl
@[simp] theorem Regs.configured_buf (a b : Byte) : (Regs.configured a b).buf = Regs.reset.buf := rfl
@[simp] theorem Regs.configured_off (a b : Byte) : (Regs.configured a b).off = Regs.reset.off := rfl
@[simp] theorem Regs.configured_outlen (a b : Byte) : (Regs.configured a b).outlen = a := rfl
@[simp] theorem Regs.configured_keylen (a b : Byte) : (Regs.configured a b).keylen = b := rfl
@[simp] theorem Regs.configured_key (a b : Byte) : (Regs.configured a b).key = Regs.reset.key := rfl
@[simp] theorem Regs.configured_ph (a b : Byte) : (Regs.configured a b).ph = .ready := rfl
@[simp] theorem Regs.configured_salt (a b : Byte) : (Regs.configured a b).salt = Regs.reset.salt := rfl
@[simp] theorem Regs.configured_saltp (a b : Byte) : (Regs.configured a b).saltp = Regs.reset.saltp := rfl
@[simp] theorem Regs.configured_pers (a b : Byte) : (Regs.configured a b).pers = Regs.reset.pers := rfl
@[simp] theorem Regs.configured_persp (a b : Byte) : (Regs.configured a b).persp = Regs.reset.persp := rfl
@[simp] theorem Regs.configured_dig (a b : Byte) : (Regs.configured a b).dig = Regs.reset.dig := rfl
@[simp] theorem Regs.configured_digv (a b : Byte) : (Regs.configured a b).digv = Regs.reset.digv := rfl

@[simp] theorem Regs.reset_h : Regs.reset.h = Vector.replicate 8 0 := rfl
@[simp] theorem Regs.reset_t0 : Regs.reset.t0 = 0 := rfl
@[simp] theorem Regs.reset_t1 : Regs.reset.t1 = 0 := rfl
@[simp] theorem Regs.reset_buf : Regs.reset.buf = Vector.replicate 128 0 := rfl
@[simp] theorem Regs.reset_off : Regs.reset.off = 0 := rfl
@[simp] theorem Regs.reset_outlen : Regs.reset.outlen = 0 := rfl
@[simp] theorem Regs.reset_keylen : Regs.reset.keylen = 0 := rfl
@[simp] theorem Regs.reset_key : Regs.reset.key = Vector.replicate 64 0 := rfl
@[simp] theorem Regs.reset_ph : Regs.reset.ph = .uncfg := rfl
@[simp] theorem Regs.reset_salt : Regs.reset.salt = Vector.replicate 2 0 := rfl
@[simp] theorem Regs.reset_saltp : Regs.reset.saltp = false := rfl
@[simp] theorem Regs.reset_pers : Regs.reset.pers = Vector.replicate 2 0 := rfl
@[simp] theorem Regs.reset_persp : Regs.reset.persp = false := rfl
@[simp] theorem Regs.reset_dig : Regs.reset.dig = Vector.replicate 8 0 := rfl
@[simp] theorem Regs.reset_digv : Regs.reset.digv = false := rfl

/-! The whole state -/

@[simp] theorem State.respond_regs (s : State) (e : Status) (w : Word) : (s.respond e w).regs = s.regs := rfl
@[simp] theorem State.respond_inputs (s : State) (e : Status) (w : Word) : (s.respond e w).inputs = s.inputs := rfl
@[simp] theorem State.respond_port (s : State) (e : Status) (w : Word) :
    (s.respond e w).port = .responding { status := e.code, rdata := w } := rfl
@[simp] theorem State.respond_response (s : State) (e : Status) (w : Word) :
    (s.respond e w).response = some { status := e.code, rdata := w } := rfl
@[simp] theorem State.advance_regs (s : State) : s.advance.regs = s.regs := rfl
@[simp] theorem State.advance_port (s : State) : s.advance.port = s.port := rfl
@[simp] theorem State.advance_inputs (s : State) : s.advance.inputs = s.inputs.tail := rfl
@[simp] theorem State.withTransfer_regs (s : State) (t : Transfer) : (s.withTransfer t).regs = s.regs := rfl
@[simp] theorem State.withTransfer_port (s : State) (t : Transfer) : (s.withTransfer t).port = .executing t := rfl
@[simp] theorem State.withTransfer_inputs (s : State) (t : Transfer) :
    (s.withTransfer t).inputs = withoutResetNow s.inputs := rfl
@[simp] theorem State.reset_regs : State.reset.regs = Regs.reset := rfl
@[simp] theorem State.reset_port : State.reset.port = .idle := rfl
@[simp] theorem State.reset_inputs : State.reset.inputs = [] := rfl

end Sys2Proof.Machine
end

