-- ==== Sys2Proof/Laws/Ops.lean ====
section
/-! SUPPORT. What each shared operation can do, once: answering, the checks for unreachable states, first use, absorbing. -/

namespace Sys2Proof.Machine

/-! Answering -/

theorem complete_next (s : State) (r : Regs) (w : Word) :
    complete s r w = .next { s with regs := r, port := .responding { status := 0x00, rdata := w } } := rfl

theorem raise_next (s : State) (e : Status) :
    raise s e = .next { s with port := .responding { status := e.code, rdata := 0 } } := rfl

theorem Status.code_injective {a b : Status} (h : a.code = b.code) : a = b := by
  cases a <;> cases b <;> first | rfl | (exact absurd h (by decide))

/-! The checks -/

theorem Regs.inSpec_iff (r : Regs) : r.inSpec = true ↔ r.off.toNat ≤ 128 ∧ r.ph ≠ .unreachable3 := by
  simp [Regs.inSpec]

theorem guarded_of_inSpec {s : State} (h : s.regs.inSpec = true) (k : Host.Outcome State Fault Refusal) :
    guarded s k = k := by
  obtain ⟨h1, h2⟩ := (Regs.inSpec_iff _).1 h
  simp [guarded, Nat.not_lt.2 h1, h2]

theorem guarded_faults {s : State} (h : s.regs.inSpec = false) (k : Host.Outcome State Fault Refusal) :
    ∃ f, guarded s k = .fault f := by
  unfold guarded
  split
  · exact ⟨_, rfl⟩
  · split
    · exact ⟨_, rfl⟩
    · simp_all [Regs.inSpec]

theorem guarded_next {s t : State} {k : Host.Outcome State Fault Refusal} (h : guarded s k = .next t) :
    s.regs.inSpec = true ∧ k = .next t := by
  cases hs : s.regs.inSpec
  · obtain ⟨f, hf⟩ := guarded_faults hs k
    rw [hf] at h
    cases h
  · exact ⟨rfl, by rwa [guarded_of_inSpec hs] at h⟩

theorem withKeyLength_of_keyFits {s : State} (h : s.regs.keyFits = true) (k : Host.Outcome State Fault Refusal) :
    withKeyLength s k = k := by
  simp [Regs.keyFits] at h
  simp [withKeyLength, Nat.not_lt.2 h]

theorem withKeyLength_next {s t : State} {k : Host.Outcome State Fault Refusal} (h : withKeyLength s k = .next t) :
    s.regs.keyFits = true ∧ k = .next t := by
  unfold withKeyLength at h
  split at h
  · cases h
  · exact ⟨by simp [Regs.keyFits]; omega, h⟩

/-! First use -/

@[simp] theorem Regs.firstUse_outlen (r : Regs) : r.firstUse.outlen = r.outlen := by unfold Regs.firstUse; split <;> rfl
@[simp] theorem Regs.firstUse_keylen (r : Regs) : r.firstUse.keylen = r.keylen := by unfold Regs.firstUse; split <;> rfl
@[simp] theorem Regs.firstUse_key (r : Regs) : r.firstUse.key = r.key := by unfold Regs.firstUse; split <;> rfl
@[simp] theorem Regs.firstUse_salt (r : Regs) : r.firstUse.salt = r.salt := by unfold Regs.firstUse; split <;> rfl
@[simp] theorem Regs.firstUse_saltp (r : Regs) : r.firstUse.saltp = r.saltp := by unfold Regs.firstUse; split <;> rfl
@[simp] theorem Regs.firstUse_pers (r : Regs) : r.firstUse.pers = r.pers := by unfold Regs.firstUse; split <;> rfl
@[simp] theorem Regs.firstUse_persp (r : Regs) : r.firstUse.persp = r.persp := by unfold Regs.firstUse; split <;> rfl
@[simp] theorem Regs.firstUse_dig (r : Regs) : r.firstUse.dig = r.dig := by unfold Regs.firstUse; split <;> rfl
@[simp] theorem Regs.firstUse_digv (r : Regs) : r.firstUse.digv = r.digv := by unfold Regs.firstUse; split <;> rfl

theorem Regs.firstUse_of_ready {r : Regs} (h : r.ph = .ready) : r.firstUse = { r.init with ph := .active } := by
  simp [Regs.firstUse, h]

theorem Regs.firstUse_of_not_ready {r : Regs} (h : r.ph ≠ .ready) : r.firstUse = r := by
  simp [Regs.firstUse, h]

theorem Regs.init_off_le (r : Regs) : r.init.off.toNat ≤ 128 := by
  rw [Regs.init_off]
  split <;> decide

/-! Absorbing one byte: two cases, by whether the buffer is full -/

theorem Regs.absorb_of_full {r : Regs} (h : r.off = 128) (b : Byte) : r.absorb b = r.flush.push b := if_pos h

theorem Regs.absorb_of_room {r : Regs} (h : r.off ≠ 128) (b : Byte) : r.absorb b = r.push b := if_neg h

/-- What ABSORB leaves alone (R38's columns for UPDATE). -/
structure Regs.SameParameters (r r' : Regs) : Prop where
  outlen : r'.outlen = r.outlen
  keylen : r'.keylen = r.keylen
  key : r'.key = r.key
  ph : r'.ph = r.ph
  salt : r'.salt = r.salt
  saltp : r'.saltp = r.saltp
  pers : r'.pers = r.pers
  persp : r'.persp = r.persp
  dig : r'.dig = r.dig
  digv : r'.digv = r.digv

theorem Regs.SameParameters.refl (r : Regs) : r.SameParameters r :=
  ⟨rfl, rfl, rfl, rfl, rfl, rfl, rfl, rfl, rfl, rfl⟩

theorem Regs.SameParameters.trans {a b c : Regs} (h : a.SameParameters b) (g : b.SameParameters c) :
    a.SameParameters c :=
  ⟨g.outlen.trans h.outlen, g.keylen.trans h.keylen, g.key.trans h.key, g.ph.trans h.ph, g.salt.trans h.salt,
    g.saltp.trans h.saltp, g.pers.trans h.pers, g.persp.trans h.persp, g.dig.trans h.dig, g.digv.trans h.digv⟩

theorem Regs.absorb_sameParameters (r : Regs) (b : Byte) : r.SameParameters (r.absorb b) := by
  by_cases h : r.off = 128
  · rw [Regs.absorb_of_full h]; exact ⟨rfl, rfl, rfl, rfl, rfl, rfl, rfl, rfl, rfl, rfl⟩
  · rw [Regs.absorb_of_room h]; exact ⟨rfl, rfl, rfl, rfl, rfl, rfl, rfl, rfl, rfl, rfl⟩

@[simp] theorem Regs.absorbAll_nil (r : Regs) : r.absorbAll [] = r := rfl

@[simp] theorem Regs.absorbAll_cons (r : Regs) (b : Byte) (bs : List Byte) :
    r.absorbAll (b :: bs) = (r.absorb b).absorbAll bs := rfl

theorem Regs.absorbAll_append (r : Regs) (bs cs : List Byte) :
    r.absorbAll (bs ++ cs) = (r.absorbAll bs).absorbAll cs := by
  simp [Regs.absorbAll]

theorem Regs.absorbAll_sameParameters (r : Regs) (bs : List Byte) : r.SameParameters (r.absorbAll bs) := by
  induction bs generalizing r with
  | nil => exact .refl r
  | cons b bs ih => exact (r.absorb_sameParameters b).trans (ih _)

/-- The offset a byte leaves: one more, or 1 where the byte finds the buffer full. -/
theorem Regs.absorb_off (r : Regs) (b : Byte) (h : r.off.toNat ≤ 128) :
    (r.absorb b).off.toNat = if r.off.toNat = 128 then 1 else r.off.toNat + 1 := by
  by_cases hf : r.off = 128
  · rw [Regs.absorb_of_full hf, hf]; rfl
  · rw [Regs.absorb_of_room hf, Regs.push_off]
    have : r.off.toNat ≠ 128 := fun e => hf (BitVec.eq_of_toNat_eq e)
    rw [if_neg this, BitVec.toNat_add]
    exact Nat.mod_eq_of_lt (by simp; omega)

@[simp] theorem messageBytes_length (d : Word) (n : Nat) : (messageBytes d n).length = n := by
  simp [messageBytes]

theorem messageBytes_getElem (d : Word) (n j : Nat) (h : j < (messageBytes d n).length) :
    (messageBytes d n)[j] = byteLane d j := by
  simp [messageBytes]

end Sys2Proof.Machine
end

