-- ==== Sys2Proof/Laws/Commands.lean ====
section
/-! SUPPORT. Each command inverted: if it answers a next state, then one of these cases holds. -/

namespace Sys2Proof.Machine

/-- The state after a command that wrote the registers `r`. -/
abbrev State.after (s : State) (r : Regs) (st : Status) (w : Word) : State := ({ s with regs := r }).respond st w

theorem execNop_next {s t : State} (h : execNop s = .next t) :
    s.regs.inSpec = true ∧ t = s.after s.regs .ok 0 := by
  obtain ⟨hs, h⟩ := guarded_next h
  cases h
  exact ⟨hs, rfl⟩

theorem execReadStatus_next {s t : State} (h : execReadStatus s = .next t) :
    s.regs.inSpec = true ∧ t = s.after s.regs .ok (statusWord s.regs) := by
  obtain ⟨hs, h⟩ := guarded_next h
  cases h
  exact ⟨hs, rfl⟩

theorem execReadCounter_next {i : Fin 2} {s t : State} (h : execReadCounter i s = .next t) :
    s.regs.inSpec = true ∧ t = s.after s.regs .ok (if i = 0 then s.regs.t0 else s.regs.t1) := by
  obtain ⟨hs, h⟩ := guarded_next h
  cases h
  exact ⟨hs, rfl⟩

theorem execIllegal_next {s t : State} (h : execIllegal s = .next t) :
    s.regs.inSpec = true ∧ t = s.after s.regs .illegalCommand 0 := by
  obtain ⟨hs, h⟩ := guarded_next h
  cases h
  exact ⟨hs, rfl⟩

theorem execReadDigest_next {i : Fin 8} {s t : State} (h : execReadDigest i s = .next t) :
    s.regs.inSpec = true ∧
      ((s.regs.digv = true ∧ t = s.after s.regs .ok s.regs.dig[i]) ∨
       (s.regs.digv = false ∧ t = s.after s.regs .sequenceError 0)) := by
  obtain ⟨hs, h⟩ := guarded_next h
  refine ⟨hs, ?_⟩
  split at h
  · cases h
    exact .inl ⟨‹_›, rfl⟩
  · rename_i hd
    cases h
    exact .inr ⟨by simpa using hd, rfl⟩

theorem execConfig_next {a b : Byte} {s t : State} (h : execConfig a b s = .next t) :
    s.regs.inSpec = true ∧
      (((a.toNat < 1 ∨ 64 < a.toNat ∨ 64 < b.toNat) ∧ t = s.after s.regs .configError 0) ∨
       (1 ≤ a.toNat ∧ a.toNat ≤ 64 ∧ b.toNat ≤ 64 ∧ t = s.after (Regs.configured a b) .ok 0)) := by
  obtain ⟨hs, h⟩ := guarded_next h
  refine ⟨hs, ?_⟩
  split at h
  · cases h
    exact .inl ⟨by omega, rfl⟩
  · split at h
    · cases h
      exact .inl ⟨by omega, rfl⟩
    · cases h
      exact .inr ⟨by omega, by omega, by omega, rfl⟩

theorem execLoadKey_next {k : Fin 8} {d : Word} {s t : State} (h : execLoadKey k d s = .next t) :
    s.regs.inSpec = true ∧
      ((s.regs.ph = .ready ∧ t = s.after (s.regs.withKeyWord k d) .ok 0) ∨
       (s.regs.ph ≠ .ready ∧ t = s.after s.regs .sequenceError 0)) := by
  obtain ⟨hs, h⟩ := guarded_next h
  refine ⟨hs, ?_⟩
  split at h <;> cases h
  · exact .inl ⟨‹_›, rfl⟩
  · exact .inr ⟨‹_›, rfl⟩

theorem execSetSalt_next {i : Fin 2} {d : Word} {s t : State} (h : execSetSalt i d s = .next t) :
    s.regs.inSpec = true ∧
      ((s.regs.ph = .ready ∧ t = s.after (s.regs.withSaltWord i d) .ok 0) ∨
       (s.regs.ph ≠ .ready ∧ t = s.after s.regs .sequenceError 0)) := by
  obtain ⟨hs, h⟩ := guarded_next h
  refine ⟨hs, ?_⟩
  split at h <;> cases h
  · exact .inl ⟨‹_›, rfl⟩
  · exact .inr ⟨‹_›, rfl⟩

theorem execSetPersonal_next {i : Fin 2} {d : Word} {s t : State} (h : execSetPersonal i d s = .next t) :
    s.regs.inSpec = true ∧
      ((s.regs.ph = .ready ∧ t = s.after (s.regs.withPersWord i d) .ok 0) ∨
       (s.regs.ph ≠ .ready ∧ t = s.after s.regs .sequenceError 0)) := by
  obtain ⟨hs, h⟩ := guarded_next h
  refine ⟨hs, ?_⟩
  split at h <;> cases h
  · exact .inl ⟨‹_›, rfl⟩
  · exact .inr ⟨‹_›, rfl⟩

theorem execUpdate_next {n : Fin 16} {d : Word} {s t : State} (h : execUpdate n d s = .next t) :
    s.regs.inSpec = true ∧
      ((8 < n.val ∧ t = s.after s.regs .illegalCommand 0) ∨
       (n.val ≤ 8 ∧ s.regs.ph = .uncfg ∧ t = s.after s.regs .sequenceError 0) ∨
       (n.val = 0 ∧ s.regs.ph ≠ .uncfg ∧ t = s.after s.regs .ok 0) ∨
       (1 ≤ n.val ∧ n.val ≤ 8 ∧ s.regs.ph ≠ .uncfg ∧ (s.regs.ph = .ready → s.regs.keyFits = true) ∧
         t = s.after (s.regs.firstUse.absorbAll (messageBytes d n)) .ok 0)) := by
  obtain ⟨hs, h⟩ := guarded_next h
  refine ⟨hs, ?_⟩
  split at h
  · cases h
    exact .inl ⟨‹_›, rfl⟩
  · split at h
    · cases h
      exact .inr (.inl ⟨by omega, ‹_›, rfl⟩)
    · split at h
      · cases h
        exact .inr (.inr (.inl ⟨‹_›, ‹_›, rfl⟩))
      · refine .inr (.inr (.inr ⟨by omega, by omega, ‹_›, ?_⟩))
        split at h
        · obtain ⟨hk, h⟩ := withKeyLength_next h
          cases h
          exact ⟨fun _ => hk, rfl⟩
        · cases h
          exact ⟨fun e => absurd e ‹_›, by rw [Regs.firstUse_of_not_ready ‹_›]⟩

theorem execFinalize_next {s t : State} (h : execFinalize s = .next t) :
    s.regs.inSpec = true ∧
      ((s.regs.ph = .uncfg ∧ t = s.after s.regs .sequenceError 0) ∨
       (s.regs.ph ≠ .uncfg ∧ s.regs.keyFits = true ∧ t = s.after s.regs.firstUse.finalized .ok 0)) := by
  obtain ⟨hs, h⟩ := guarded_next h
  refine ⟨hs, ?_⟩
  split at h
  · cases h
    exact .inl ⟨‹_›, rfl⟩
  · obtain ⟨hk, h⟩ := withKeyLength_next h
    cases h
    exact .inr ⟨‹_›, hk, rfl⟩

/-- A command that goes on met a state the spec defines, made its response pending and used no input. -/
theorem exec_next {i : Instr} {s t : State} (h : exec i s = .next t) :
    s.regs.inSpec = true ∧ ∃ r st w, t = s.after r st w := by
  cases i with
  | nop => obtain ⟨hs, e⟩ := execNop_next h; exact ⟨hs, _, _, _, e⟩
  | config a b =>
    obtain ⟨hs, e⟩ := execConfig_next h
    rcases e with ⟨_, e⟩ | ⟨_, _, _, e⟩ <;> exact ⟨hs, _, _, _, e⟩
  | loadKey k d =>
    obtain ⟨hs, ⟨_, e⟩ | ⟨_, e⟩⟩ := execLoadKey_next h <;> exact ⟨hs, _, _, _, e⟩
  | setSalt k d =>
    obtain ⟨hs, ⟨_, e⟩ | ⟨_, e⟩⟩ := execSetSalt_next h <;> exact ⟨hs, _, _, _, e⟩
  | setPersonal k d =>
    obtain ⟨hs, ⟨_, e⟩ | ⟨_, e⟩⟩ := execSetPersonal_next h <;> exact ⟨hs, _, _, _, e⟩
  | update n d =>
    obtain ⟨hs, ⟨_, e⟩ | ⟨_, _, e⟩ | ⟨_, _, e⟩ | ⟨_, _, _, _, e⟩⟩ := execUpdate_next h <;> exact ⟨hs, _, _, _, e⟩
  | finalize =>
    obtain ⟨hs, ⟨_, e⟩ | ⟨_, _, e⟩⟩ := execFinalize_next h <;> exact ⟨hs, _, _, _, e⟩
  | readDigest k =>
    obtain ⟨hs, ⟨_, e⟩ | ⟨_, e⟩⟩ := execReadDigest_next h <;> exact ⟨hs, _, _, _, e⟩
  | readStatus => obtain ⟨hs, e⟩ := execReadStatus_next h; exact ⟨hs, _, _, _, e⟩
  | readCounter k => obtain ⟨hs, e⟩ := execReadCounter_next h; exact ⟨hs, _, _, _, e⟩

/-! Each command forward: the conditions under which it has its effect -/

theorem execConfig_of_range {a b : Byte} {s : State} (hs : s.regs.inSpec = true) (h1 : 1 ≤ a.toNat)
    (h2 : a.toNat ≤ 64) (h3 : b.toNat ≤ 64) : execConfig a b s = .next (s.after (Regs.configured a b) .ok 0) := by
  unfold execConfig
  rw [guarded_of_inSpec hs, if_neg (by omega), if_neg (by omega)]
  rfl

theorem execLoadKey_of_ready {k : Fin 8} {d : Word} {s : State} (hs : s.regs.inSpec = true) (hp : s.regs.ph = .ready) :
    execLoadKey k d s = .next (s.after (s.regs.withKeyWord k d) .ok 0) := by
  unfold execLoadKey
  rw [guarded_of_inSpec hs, if_pos hp]
  rfl

theorem execSetSalt_of_ready {i : Fin 2} {d : Word} {s : State} (hs : s.regs.inSpec = true) (hp : s.regs.ph = .ready) :
    execSetSalt i d s = .next (s.after (s.regs.withSaltWord i d) .ok 0) := by
  unfold execSetSalt
  rw [guarded_of_inSpec hs, if_pos hp]
  rfl

theorem execSetPersonal_of_ready {i : Fin 2} {d : Word} {s : State} (hs : s.regs.inSpec = true)
    (hp : s.regs.ph = .ready) : execSetPersonal i d s = .next (s.after (s.regs.withPersWord i d) .ok 0) := by
  unfold execSetPersonal
  rw [guarded_of_inSpec hs, if_pos hp]
  rfl

theorem execUpdate_of_bytes {n : Fin 16} {d : Word} {s : State} (hs : s.regs.inSpec = true) (hp : s.regs.ph ≠ .uncfg)
    (hk : s.regs.ph = .ready → s.regs.keyFits = true) (h1 : 1 ≤ n.val) (h8 : n.val ≤ 8) :
    execUpdate n d s = .next (s.after (s.regs.firstUse.absorbAll (messageBytes d n)) .ok 0) := by
  unfold execUpdate
  rw [guarded_of_inSpec hs, if_neg (by omega), if_neg hp, if_neg (by omega)]
  split
  · rw [withKeyLength_of_keyFits (hk ‹_›)]
    rfl
  · rw [Regs.firstUse_of_not_ready ‹_›]
    rfl

theorem execFinalize_of_configured {s : State} (hs : s.regs.inSpec = true) (hk : s.regs.keyFits = true)
    (hp : s.regs.ph ≠ .uncfg) : execFinalize s = .next (s.after s.regs.firstUse.finalized .ok 0) := by
  unfold execFinalize
  rw [guarded_of_inSpec hs, if_neg hp, withKeyLength_of_keyFits hk]
  rfl

theorem execReadDigest_of_valid {i : Fin 8} {s : State} (hs : s.regs.inSpec = true) (hd : s.regs.digv = true) :
    execReadDigest i s = .next (s.after s.regs .ok s.regs.dig[i]) := by
  unfold execReadDigest
  rw [guarded_of_inSpec hs, if_pos hd]
  rfl

theorem execReadStatus_of_inSpec {s : State} (hs : s.regs.inSpec = true) :
    execReadStatus s = .next (s.after s.regs .ok (statusWord s.regs)) := by
  unfold execReadStatus
  rw [guarded_of_inSpec hs]
  rfl

theorem execReadCounter_of_inSpec {i : Fin 2} {s : State} (hs : s.regs.inSpec = true) :
    execReadCounter i s = .next (s.after s.regs .ok (if i = 0 then s.regs.t0 else s.regs.t1)) := by
  unfold execReadCounter
  rw [guarded_of_inSpec hs]
  rfl

end Sys2Proof.Machine
end

