-- ==== Sys2Proof/Laws/Words.lean ====
section
/-! SUPPORT. Bytes and words as numbers: concatenation, `LE64` and the byte lanes are inverse to each other. -/

namespace Sys2Proof.Machine

theorem toNat_append_byte {n : Nat} (x : BitVec n) (y : Byte) : (x ++ y).toNat = x.toNat * 256 + y.toNat := by
  rw [BitVec.toNat_append, ← Nat.shiftLeft_add_eq_or_of_lt y.isLt, Nat.shiftLeft_eq]

theorem le64_toNat (b : Fin 8 → Byte) : (le64 b).toNat =
    ((((((((b 7).toNat * 256 + (b 6).toNat) * 256 + (b 5).toNat) * 256 + (b 4).toNat) * 256 + (b 3).toNat) * 256
      + (b 2).toNat) * 256 + (b 1).toNat) * 256 + (b 0).toNat) := by
  have h : (le64 b).toNat
      = (b 7 ++ b 6 ++ b 5 ++ b 4 ++ b 3 ++ b 2 ++ b 1 ++ b 0 : BitVec (8 + 8 + 8 + 8 + 8 + 8 + 8 + 8)).toNat := rfl
  rw [h]
  simp only [toNat_append_byte]

theorem byteLane_toNat (w : Word) (j : Nat) : (byteLane w j).toNat = w.toNat / 2^(8*j) % 256 := by
  unfold byteLane; rw [BitVec.extractLsb'_toNat, Nat.shiftRight_eq_div_pow]

theorem byteLane_le64 (b : Fin 8 → Byte) (j : Fin 8) : byteLane (le64 b) j.val = b j := by
  apply BitVec.eq_of_toNat_eq
  rw [byteLane_toNat, le64_toNat]
  have h0 := (b 0).isLt; have h1 := (b 1).isLt; have h2 := (b 2).isLt; have h3 := (b 3).isLt
  have h4 := (b 4).isLt; have h5 := (b 5).isLt; have h6 := (b 6).isLt; have h7 := (b 7).isLt
  match j with
  | 0 | 1 | 2 | 3 | 4 | 5 | 6 | 7 => simp; omega

theorem byteLane_le64_of_lt (b : Fin 8 → Byte) {j : Nat} (h : j < 8) : byteLane (le64 b) j = b ⟨j, h⟩ :=
  byteLane_le64 b ⟨j, h⟩

theorem le64_byteLane (w : Word) : le64 (fun j => byteLane w j.val) = w := by
  apply BitVec.eq_of_toNat_eq
  rw [le64_toNat]
  simp only [byteLane_toNat]
  have := w.isLt
  simp
  omega

/-- R186, byte by byte. -/
theorem getElem_writeKeyWord (key : Vector Byte 64) (k : Fin 8) (d : Word) (p : Nat) (h : p < 64) :
    (writeKeyWord key k d)[p] = if p / 8 = k.val then byteLane d (p % 8) else key[p] := by
  have hk := k.isLt
  simp only [writeKeyWord, List.foldl, Vector.getElem_set]
  by_cases e : p / 8 = k.val
  · have hp : p = 8 * k.val + p % 8 := by omega
    rw [if_pos e]
    have hm : p % 8 < 8 := by omega
    generalize p % 8 = m at hp hm
    subst hp
    interval_cases m <;> simp
  · rw [if_neg e]
    simp
    repeat rw [if_neg (by omega)]

end Sys2Proof.Machine
end

