-- ==== Sys2Proof/Laws/Encoding.lean ====
section
/-! SUPPORT. The fields of a command word as numbers, and the fields of an encoded word. -/

namespace Sys2Proof

open Sys2Proof.Machine

theorem commandWord_toNat (o a b : Byte) : (commandWord o a b).toNat = b.toNat * 65536 + a.toNat * 256 + o.toNat := by
  have h : (commandWord o a b).toNat = ((0#8 ++ b ++ a ++ o : BitVec (8 + 8 + 8 + 8))).toNat := rfl
  rw [h, toNat_append_byte, toNat_append_byte, toNat_append_byte]; simp; omega

theorem fieldOpc_toNat (c : BitVec 32) : (fieldOpc c).toNat = c.toNat % 256 := by
  unfold fieldOpc; rw [BitVec.extractLsb'_toNat]; simp

theorem fieldA_toNat (c : BitVec 32) : (fieldA c).toNat = c.toNat / 2^8 % 256 := by
  unfold fieldA; rw [BitVec.extractLsb'_toNat, Nat.shiftRight_eq_div_pow]

theorem fieldB_toNat (c : BitVec 32) : (fieldB c).toNat = c.toNat / 2^16 % 256 := by
  unfold fieldB; rw [BitVec.extractLsb'_toNat, Nat.shiftRight_eq_div_pow]

theorem fieldRsv_toNat (c : BitVec 32) : (fieldRsv c).toNat = c.toNat / 2^24  := by
  unfold fieldRsv; rw [BitVec.extractLsb'_toNat, Nat.shiftRight_eq_div_pow]
  have := c.isLt
  omega

@[simp] theorem fieldOpc_commandWord (o a b : Byte) : fieldOpc (commandWord o a b) = o := by
  apply BitVec.eq_of_toNat_eq; rw [fieldOpc_toNat, commandWord_toNat]; omega

@[simp] theorem fieldA_commandWord (o a b : Byte) : fieldA (commandWord o a b) = a := by
  apply BitVec.eq_of_toNat_eq; rw [fieldA_toNat, commandWord_toNat]; omega

@[simp] theorem fieldB_commandWord (o a b : Byte) : fieldB (commandWord o a b) = b := by
  apply BitVec.eq_of_toNat_eq; rw [fieldB_toNat, commandWord_toNat]; omega

@[simp] theorem fieldRsv_commandWord (o a b : Byte) : fieldRsv (commandWord o a b) = 0 := by
  apply BitVec.eq_of_toNat_eq; rw [fieldRsv_toNat, commandWord_toNat]; simp; omega

theorem commandWord_fields (c : BitVec 32) (h : fieldRsv c = 0) : commandWord (fieldOpc c) (fieldA c) (fieldB c) = c := by
  apply BitVec.eq_of_toNat_eq; rw [commandWord_toNat, fieldOpc_toNat, fieldA_toNat, fieldB_toNat]
  have h := congrArg BitVec.toNat h
  rw [fieldRsv_toNat] at h
  simp at h
  omega

/-! Decoding, inverted -/

theorem decodePlain_ok {a b : Byte} {j i : Instr} (h : decodePlain a b j = .ok i) : a = 0 ∧ b = 0 ∧ i = j := by
  unfold decodePlain at h
  split at h
  · rename_i hab
    cases h
    exact ⟨hab.1, hab.2, rfl⟩
  · cases h

theorem decodeIndexed_ok {bound : Nat} {a b : Byte} {mk : Fin bound → Instr} {i : Instr}
    (h : decodeIndexed bound a b mk = .ok i) : ∃ ha : a.toNat < bound, b = 0 ∧ i = mk ⟨a.toNat, ha⟩ := by
  unfold decodeIndexed at h
  split at h
  · split at h
    · cases h
      exact ⟨‹_›, ‹_›, rfl⟩
    · cases h
  · cases h

theorem decodeUpdate_ok {a b : Byte} {d : Word} {i : Instr} (h : decodeUpdate a b d = .ok i) :
    ∃ ha : a.toNat ≤ 8, b = 0 ∧ i = .update ⟨a.toNat, by omega⟩ d := by
  unfold decodeUpdate at h
  split at h
  · split at h
    · cases h
      exact ⟨‹_›, ‹_›, rfl⟩
    · cases h
  · cases h

/-- R82, inverted: what a decoded command says of the fields of its word. -/
theorem decode_ok {t : Transfer} {i : Instr} (h : decode t = .ok i) :
    fieldRsv t.cmd = 0 ∧
      (((fieldOpc t.cmd).toNat = 0 ∧ fieldA t.cmd = 0 ∧ fieldB t.cmd = 0 ∧ i = .nop) ∨
       ((fieldOpc t.cmd).toNat = 1 ∧ i = .config (fieldA t.cmd) (fieldB t.cmd)) ∨
       ((fieldOpc t.cmd).toNat = 2 ∧ ∃ ha : (fieldA t.cmd).toNat < 8, fieldB t.cmd = 0 ∧
          i = .loadKey ⟨(fieldA t.cmd).toNat, ha⟩ t.data) ∨
       ((fieldOpc t.cmd).toNat = 3 ∧ ∃ ha : (fieldA t.cmd).toNat < 2, fieldB t.cmd = 0 ∧
          i = .setSalt ⟨(fieldA t.cmd).toNat, ha⟩ t.data) ∨
       ((fieldOpc t.cmd).toNat = 4 ∧ ∃ ha : (fieldA t.cmd).toNat < 2, fieldB t.cmd = 0 ∧
          i = .setPersonal ⟨(fieldA t.cmd).toNat, ha⟩ t.data) ∨
       ((fieldOpc t.cmd).toNat = 5 ∧ ∃ ha : (fieldA t.cmd).toNat ≤ 8, fieldB t.cmd = 0 ∧
          i = .update ⟨(fieldA t.cmd).toNat, by omega⟩ t.data) ∨
       ((fieldOpc t.cmd).toNat = 6 ∧ fieldA t.cmd = 0 ∧ fieldB t.cmd = 0 ∧ i = .finalize) ∨
       ((fieldOpc t.cmd).toNat = 7 ∧ ∃ ha : (fieldA t.cmd).toNat < 8, fieldB t.cmd = 0 ∧
          i = .readDigest ⟨(fieldA t.cmd).toNat, ha⟩) ∨
       ((fieldOpc t.cmd).toNat = 8 ∧ fieldA t.cmd = 0 ∧ fieldB t.cmd = 0 ∧ i = .readStatus) ∨
       ((fieldOpc t.cmd).toNat = 9 ∧ ∃ ha : (fieldA t.cmd).toNat < 2, fieldB t.cmd = 0 ∧
          i = .readCounter ⟨(fieldA t.cmd).toNat, ha⟩)) := by
  unfold decode at h
  dsimp only at h
  split at h
  · refine ⟨‹_›, ?_⟩
    split at h
    · exact .inl ⟨‹_›, decodePlain_ok h⟩
    · cases h
      exact .inr (.inl ⟨‹_›, rfl⟩)
    · exact .inr (.inr (.inl ⟨‹_›, decodeIndexed_ok h⟩))
    · exact .inr (.inr (.inr (.inl ⟨‹_›, decodeIndexed_ok h⟩)))
    · exact .inr (.inr (.inr (.inr (.inl ⟨‹_›, decodeIndexed_ok h⟩))))
    · exact .inr (.inr (.inr (.inr (.inr (.inl ⟨‹_›, decodeUpdate_ok h⟩)))))
    · exact .inr (.inr (.inr (.inr (.inr (.inr (.inl ⟨‹_›, decodePlain_ok h⟩))))))
    · exact .inr (.inr (.inr (.inr (.inr (.inr (.inr (.inl ⟨‹_›, decodeIndexed_ok h⟩)))))))
    · exact .inr (.inr (.inr (.inr (.inr (.inr (.inr (.inr (.inl ⟨‹_›, decodePlain_ok h⟩))))))))
    · exact .inr (.inr (.inr (.inr (.inr (.inr (.inr (.inr (.inr ⟨‹_›, decodeIndexed_ok h⟩))))))))
    · cases h
  · cases h

end Sys2Proof
end

