-- ==== Sys2Proof/Laws/PerInstr.lean ====
section
/-! SUPPORT. For every command: the word the encoder writes matches its own row of R83's table. -/

namespace Sys2Proof.Laws.EncodesItsRow

/-- A well-formed command's word has the fixed bits of the row with its mnemonic (spec/30_encoding.md R83). -/
def Statement (i : Instr) : Prop :=
  i.wellFormed = true → ∃ row ∈ opcodeRows, row.mnemonic = i.mnemonic ∧ row.matchesWord (encode i).cmd = true

theorem nop : Statement .nop := fun _ => ⟨⟨"NOP", 0x00000000, 0xFFFFFFFF⟩, by decide, rfl, by decide⟩

theorem finalize : Statement .finalize := fun _ => ⟨⟨"FINALIZE", 0x00000006, 0xFFFFFFFF⟩, by decide, rfl, by decide⟩

theorem readStatus : Statement .readStatus :=
  fun _ => ⟨⟨"READ_STATUS", 0x00000008, 0xFFFFFFFF⟩, by decide, rfl, by decide⟩

theorem config (a b : Byte) : Statement (.config a b) := by
  refine fun _ => ⟨⟨"CONFIG", 0x00000001, 0xFF0000FF⟩, by decide, rfl, ?_⟩
  have h : (0#8 ++ b ++ a ++ 0x01#8 : BitVec (8 + 8 + 8 + 8)) &&& 0xFF0000FF#(8 + 8 + 8 + 8)
      = 0x00000001#(8 + 8 + 8 + 8) := by
    ext i hi
    simp only [BitVec.getElem_and, BitVec.getElem_append]
    interval_cases i <;> simp
  have g : commandWord 0x01 a b &&& 0xFF0000FF#32 = 0x00000001#32 := h
  exact Bool.and_eq_true_iff.2 ⟨beq_iff_eq.2 g, Bool.or_eq_true_iff.2 (.inl (by decide))⟩

theorem loadKey (k : Fin 8) (d : Word) : Statement (.loadKey k d) := by
  have h : ∀ k : Fin 8, OpcodeRow.matchesWord ⟨"LOAD_KEY", 0x00000002, 0xFFFFF8FF⟩
      (commandWord 0x02 (BitVec.ofNat 8 k) 0) = true := by decide
  exact fun _ => ⟨⟨"LOAD_KEY", 0x00000002, 0xFFFFF8FF⟩, by decide, rfl, h k⟩

theorem setSalt (k : Fin 2) (d : Word) : Statement (.setSalt k d) := by
  have h : ∀ k : Fin 2, OpcodeRow.matchesWord ⟨"SET_SALT", 0x00000003, 0xFFFFFEFF⟩
      (commandWord 0x03 (BitVec.ofNat 8 k) 0) = true := by decide
  exact fun _ => ⟨⟨"SET_SALT", 0x00000003, 0xFFFFFEFF⟩, by decide, rfl, h k⟩

theorem setPersonal (k : Fin 2) (d : Word) : Statement (.setPersonal k d) := by
  have h : ∀ k : Fin 2, OpcodeRow.matchesWord ⟨"SET_PERSONAL", 0x00000004, 0xFFFFFEFF⟩
      (commandWord 0x04 (BitVec.ofNat 8 k) 0) = true := by decide
  exact fun _ => ⟨⟨"SET_PERSONAL", 0x00000004, 0xFFFFFEFF⟩, by decide, rfl, h k⟩

theorem update (k : Fin 16) (d : Word) : Statement (.update k d) := by
  have h : ∀ k : Fin 16, k.val ≤ 8 → OpcodeRow.matchesWord ⟨"UPDATE", 0x00000005, 0xFFFFF0FF⟩
      (commandWord 0x05 (BitVec.ofNat 8 k) 0) = true := by decide
  exact fun g => ⟨⟨"UPDATE", 0x00000005, 0xFFFFF0FF⟩, by decide, rfl, h k (by simpa [Instr.wellFormed] using g)⟩

theorem readDigest (k : Fin 8) : Statement (.readDigest k) := by
  have h : ∀ k : Fin 8, OpcodeRow.matchesWord ⟨"READ_DIGEST", 0x00000007, 0xFFFFF8FF⟩
      (commandWord 0x07 (BitVec.ofNat 8 k) 0) = true := by decide
  exact fun _ => ⟨⟨"READ_DIGEST", 0x00000007, 0xFFFFF8FF⟩, by decide, rfl, h k⟩

theorem readCounter (k : Fin 2) : Statement (.readCounter k) := by
  have h : ∀ k : Fin 2, OpcodeRow.matchesWord ⟨"READ_COUNTER", 0x00000009, 0xFFFFFEFF⟩
      (commandWord 0x09 (BitVec.ofNat 8 k) 0) = true := by decide
  exact fun _ => ⟨⟨"READ_COUNTER", 0x00000009, 0xFFFFFEFF⟩, by decide, rfl, h k⟩

end Sys2Proof.Laws.EncodesItsRow
end

