-- ==== Sys2Proof/Laws/Sessions.lean ====
section
/-! SUPPORT. Sequences of commands: a run is its first command and the rest, and a run of UPDATEs is one absorbing. -/

namespace Sys2Proof.Machine

theorem runCommands_cons {i : Instr} {s t : State} (h : exec i s = .next t) (is : List Instr) :
    runCommands (i :: is) s = (runCommands is t).map fun p => (p.1, t.response.toList ++ p.2) := by
  simp only [runCommands, h]

/-! The offset and the phase while bytes are absorbed -/

theorem Regs.absorbAll_off_le (bs : List Byte) (r : Regs) (h : r.off.toNat ≤ 128) :
    (r.absorbAll bs).off.toNat ≤ 128 := by
  induction bs generalizing r with
  | nil => exact h
  | cons b bs ih =>
    apply ih
    rw [Regs.absorb_off r b h]
    split <;> omega

theorem Regs.firstUse_off_le {r : Regs} (h : r.off.toNat ≤ 128) : r.firstUse.off.toNat ≤ 128 := by
  by_cases hr : r.ph = .ready
  · rw [Regs.firstUse_of_ready hr]; exact r.init_off_le
  · rw [Regs.firstUse_of_not_ready hr]; exact h

theorem Regs.firstUse_active {r : Regs} (h : r.inSpec = true) (hp : r.ph ≠ .uncfg) : r.firstUse.ph = .active := by
  obtain ⟨_, h2⟩ := (Regs.inSpec_iff _).1 h
  by_cases hr : r.ph = .ready
  · rw [Regs.firstUse_of_ready hr]
  · rw [Regs.firstUse_of_not_ready hr]
    cases hh : r.ph <;> simp_all

/-- After a use the engine is active and in a state the spec defines. -/
theorem Regs.used_inSpec {r : Regs} (h : r.inSpec = true) (hp : r.ph ≠ .uncfg) (bs : List Byte) :
    (r.firstUse.absorbAll bs).inSpec = true ∧ (r.firstUse.absorbAll bs).ph = .active := by
  have hph := (r.firstUse.absorbAll_sameParameters bs).ph.trans (Regs.firstUse_active h hp)
  refine ⟨(Regs.inSpec_iff _).2 ⟨?_, by simp [hph]⟩, hph⟩
  exact Regs.absorbAll_off_le _ _ (Regs.firstUse_off_le ((Regs.inSpec_iff _).1 h).1)

theorem Regs.firstUse_used {r : Regs} (h : r.inSpec = true) (hp : r.ph ≠ .uncfg) (bs : List Byte) :
    (r.firstUse.absorbAll bs).firstUse = r.firstUse.absorbAll bs :=
  Regs.firstUse_of_not_ready (by simp [(Regs.used_inSpec h hp bs).2])

/-- UPDATEs with at least one byte each, one after another, absorb the concatenation of their bytes. -/
theorem runCommands_updates (us : List (Fin 16 × Word)) (s : State) (hs : s.regs.inSpec = true)
    (hp : s.regs.ph ≠ .uncfg) (hk : s.regs.ph = .ready → s.regs.keyFits = true)
    (hu : ∀ u ∈ us, 1 ≤ u.1.val ∧ u.1.val ≤ 8) :
    ∃ t rs, runCommands (updateCommands us) s = some (t, rs) ∧
      t.regs = if us = [] then s.regs else s.regs.firstUse.absorbAll (updateBytes us) := by
  induction us generalizing s with
  | nil => exact ⟨s, [], rfl, rfl⟩
  | cons u us ih =>
    have he : exec (.update u.1 u.2) s = _ := execUpdate_of_bytes hs hp hk (hu u (by simp)).1 (hu u (by simp)).2
    obtain ⟨h1, h2⟩ := Regs.used_inSpec hs hp (messageBytes u.2 u.1)
    obtain ⟨t, rs, hr, ht⟩ := ih (s.after (s.regs.firstUse.absorbAll (messageBytes u.2 u.1)) .ok 0) h1
      (by simp [h2]) (by simp [h2]) (fun v hv => hu v (by simp [hv]))
    refine ⟨t, _, by rw [updateCommands, List.map_cons, runCommands_cons he, ← updateCommands, hr]; rfl, ?_⟩
    rw [ht]
    simp only [State.respond_regs, Regs.firstUse_used hs hp]
    split
    · subst_vars; simp [updateBytes]
    · simp [updateBytes, Regs.absorbAll_append]

/-! The status word as a number -/

theorem statusWord_toNat (r : Regs) : (statusWord r).toNat =
    r.off.toNat * 2 ^ 32 + r.keylen.toNat * 2 ^ 16 + r.outlen.toNat * 2 ^ 8 + r.persp.toNat * 16 + r.saltp.toNat * 8
      + r.digv.toNat * 4 + r.ph.bits.toNat := by
  have e : (statusWord r).toNat = (0#24 ++ r.off ++ 0#8 ++ r.keylen ++ r.outlen ++ 0#3 ++ BitVec.ofBool r.persp
    ++ BitVec.ofBool r.saltp ++ BitVec.ofBool r.digv ++ r.ph.bits : BitVec (24 + 8 + 8 + 8 + 8 + 3 + 1 + 1 + 1 + 2)).toNat := rfl
  have append {n m : Nat} (x : BitVec n) (y : BitVec m) : (x ++ y).toNat = x.toNat * 2 ^ m + y.toNat := by
    rw [BitVec.toNat_append, ← Nat.shiftLeft_add_eq_or_of_lt y.isLt, Nat.shiftLeft_eq]
  rw [e]
  simp only [append]
  have h1 := r.ph.bits.isLt
  cases r.persp <;> cases r.saltp <;> cases r.digv <;> simp <;> omega

end Sys2Proof.Machine
end

