-- ==== Sys2Proof/Tests/Slice0.lean ====
section
/-! SUPPORT. Tests with the expected values of spec/95_test_vectors.md and of the encodings of spec/30_encoding.md, and for
every obligation with hypotheses a witness that meets them (each clause at a boundary value of its range). -/

namespace Sys2Proof.Tests

open Sys2Proof Sys2Proof.Machine

/-! Small states -/

/-- The state with the given registers, an idle port and no inputs. -/
def stateOf (r : Regs) : State := { regs := r, port := .idle, inputs := [] }

/-- After `CONFIG outlen, keylen`. -/
def readyRegs (outlen keylen : Byte) : Regs := Regs.configured outlen keylen

/-- An active engine, unkeyed, with the given offset. -/
def activeRegs (off : Byte) : Regs := { Regs.configured 64 0 with ph := .active, off := off }

/-- The same engine with a latched digest. -/
def latchedRegs : Regs := { activeRegs 0 with digv := true, dig := #v[0x0D4D1C983FA580BA, 1, 2, 3, 4, 5, 6, 7] }

/-- An engine that has absorbed "abc" (W1 after its UPDATE). -/
def abcRegs : Regs := (readyRegs 64 0).firstUse.absorbAll [0x61, 0x62, 0x63]

/-- The registers after a command; those before where it stops. -/
def regsAfter (i : Instr) (r : Regs) : Regs :=
  match exec i (stateOf r) with
  | .next t => t.regs
  | .fault _ => r
  | .refused _ => r

/-- The status and the data a command answers. -/
def answerOf (i : Instr) (r : Regs) : Option (Byte × Word) :=
  match exec i (stateOf r) with
  | .next t => t.response.map fun x => (x.status, x.rdata)
  | .fault _ => none
  | .refused _ => none

/-- What the step answers after a command word, from the given registers. -/
def stepAnswer (w : BitVec 32) (d : Word) (r : Regs) : Option (Byte × Word × Bool) :=
  match step ((stateOf r).withTransfer { cmd := w, data := d }) with
  | .next t => t.response.map fun x => (x.status, x.rdata, decide (t.regs = r))
  | .fault _ => none
  | .refused _ => none

/-! WellFormed: the one check, with an ill-formed term it refuses -/

theorem test_update_nine_is_ill_formed : (Instr.update 9 0).wellFormed = false := by decide
theorem test_update_fifteen_is_ill_formed : (Instr.update 15 0).wellFormed = false := by decide
theorem test_update_eight_is_well_formed : (Instr.update 8 0).wellFormed = true := by decide

/-! Decoding: words written out from the patterns of R83 -/

theorem test_decode_nop : decode ⟨0b00000000000000000000000000000000#32, 5⟩ = .ok .nop := by decide
theorem test_decode_config : decode ⟨0b00000000010000000010000000000001#32, 5⟩ = .ok (.config 32 64) := by decide
theorem test_decode_loadKey : decode ⟨0b00000000000000000000011100000010#32, 5⟩ = .ok (.loadKey 7 5) := by decide
theorem test_decode_setSalt : decode ⟨0b00000000000000000000000100000011#32, 5⟩ = .ok (.setSalt 1 5) := by decide
theorem test_decode_setPersonal : decode ⟨0b00000000000000000000000100000100#32, 5⟩ = .ok (.setPersonal 1 5) := by decide
theorem test_decode_update : decode ⟨0b00000000000000000000100000000101#32, 5⟩ = .ok (.update 8 5) := by decide
theorem test_decode_finalize : decode ⟨0b00000000000000000000000000000110#32, 5⟩ = .ok .finalize := by decide
theorem test_decode_readDigest : decode ⟨0b00000000000000000000011100000111#32, 5⟩ = .ok (.readDigest 7) := by decide
theorem test_decode_readStatus : decode ⟨0b00000000000000000000000000001000#32, 5⟩ = .ok .readStatus := by decide
theorem test_decode_readCounter : decode ⟨0b00000000000000000000000100001001#32, 5⟩ = .ok (.readCounter 1) := by decide

/-- EV1 to EV5, EV10, EV12: words no row matches, by the reason they are refused for. -/
theorem test_decode_refuses :
    decode ⟨0x00000100, 0⟩ = .error .operandField ∧ decode ⟨0x00010000, 0⟩ = .error .operandField ∧
    decode ⟨0x80000000, 0⟩ = .error .reservedField ∧ decode ⟨0x0000000A, 0⟩ = .error .reservedOpcode ∧
    decode ⟨0x000000FF, 0⟩ = .error .reservedOpcode ∧ decode ⟨0x00000905, 0⟩ = .error .operandField ∧
    decode ⟨0x00010105, 0⟩ = .error .operandField := by decide

/-- R83: no word has the fixed bits of two rows. -/
theorem test_opcode_rows_disjoint :
    opcodeRows.Pairwise fun a b => (a.pattern ^^^ b.pattern) &&& a.mask &&& b.mask ≠ 0 := by decide

/-- A table word of 96 bits carries `DATA` above the command word; one of 32 bits has `DATA` 0. -/
theorem test_table_word_data :
    decodeTableWord 96 (0x636261 * 2 ^ 32 + 0x305) = some (.update 3 0x636261) ∧
    decodeTableWord 32 (0x636261 * 2 ^ 32 + 0x305) = some (.update 3 0) := by decide

/-- Right after reset the step runs the word placed: READ_STATUS answers 0 (EV30). -/
theorem test_step_from_reset :
    step (State.reset.withFetchWord 32 0x8) = .next { State.reset with port := .responding ⟨0x00, 0⟩ } := rfl

/-! The algorithm's parts -/

/-- RV1 to RV4. -/
theorem test_rotr : rotr 1 63 = 2 ∧ rotr 1 32 = 0x100000000 ∧ rotr 0x8000000000000001 24 = 0x0000018000000000 ∧
    rotr 0x0123456789ABCDEF 16 = 0xCDEF0123456789AB := by decide

/-- RV6, RV7. -/
theorem test_byte_order : le64 (fun j => #v[0x61, 0x62, 0x63, 0, 0, 0, 0, 0][j]) = 0x636261 ∧
    byteLane 0x0706050403020100 0 = 0 ∧ byteLane 0x0706050403020100 7 = 7 := by decide

/-- G2. -/
theorem test_mixG : let v : Vector Word 16 := #v[1, 0, 0, 0, 2, 0, 0, 0, 3, 0, 0, 0, 4, 0, 0, 0]
    let w := mixG v ⟨0, 4, 8, 12⟩ 5 6
    w[0] = 0x0000010000000C0E ∧ w[4] = 0x181C021802181806 ∧ w[8] = 0x0C0E000C010C0003 ∧ w[12] = 0x0C0E0000010C0000 ∧
    w[1] = 0 := by decide

/-- R102: every row of the schedule is a permutation. -/
theorem test_sigma_rows : ∀ r : Fin 12, (sigma[r]).toList.Nodup := by decide

/-- F2, its last word, and F3, its first: `h = 0`, an all-zero block, the final flag or the high counter word set. -/
theorem test_compress : (compress Regs.reset.h Regs.reset.buf 0 0 true)[7] = 0xA3AFC6E7468B6111 ∧
    (compress Regs.reset.h Regs.reset.buf 0 1 false)[0] = 0xE330F223133FDE16 := by decide +kernel

/-- CV4, CV6, CV9. -/
theorem test_ctrInc :
    let at_ (t0 t1 : Word) (n : Byte) := let r := Regs.ctrInc { Regs.reset with t0 := t0, t1 := t1 } n; (r.t0, r.t1)
    at_ 0xFFFFFFFFFFFFFF81 0 128 = (1, 1) ∧ at_ 0xFFFFFFFFFFFFFF80 0xFFFFFFFFFFFFFFFF 128 = (0, 0) ∧
    at_ 0xFFFFFFFFFFFFFFFF 0 0 = (0xFFFFFFFFFFFFFFFF, 0) := by decide

/-- IV4, IV6: the parameter word and the offset of a keyed engine. -/
theorem test_init : (readyRegs 64 64).init.h[0] = 0x6A09E667F2BD8948 ∧ (readyRegs 64 64).init.off = 128 ∧
    (readyRegs 64 1).init.h[0] = 0x6A09E667F2BDC848 := by decide

/-! The commands -/

/-- SV2, SV5. -/
theorem test_config : statusWord (regsAfter (.config 64 0) Regs.reset) = 0x4001 ∧
    statusWord (regsAfter (.config 64 64) (activeRegs 5)) = 0x404001 := by decide
/-- EV26, EV27. -/
theorem test_config_error : stepAnswer 0x00004101 0 (activeRegs 5) = some (1, 0, true) ∧
    stepAnswer 0x00414001 0 (readyRegs 64 0) = some (1, 0, true) := by decide +kernel
/-- R186: `LDKEY 7, ...` writes key bytes 56 to 63. -/
theorem test_loadKey : let r := regsAfter (.loadKey 7 0x3F3E3D3C3B3A3938) (readyRegs 64 64)
    r.key[55] = 0 ∧ r.key[56] = 0x38 ∧ r.key[63] = 0x3F := by decide
/-- EV23. -/
theorem test_loadKey_locked : stepAnswer 0x00000702 1 (activeRegs 5) = some (2, 0, true) := by decide +kernel
/-- SV7's SALTP. -/
theorem test_setSalt : let r := regsAfter (.setSalt 1 0x0F0E0D0C0B0A0908) (readyRegs 64 0)
    r.salt[0] = 0 ∧ r.salt[1] = 0x0F0E0D0C0B0A0908 ∧ statusWord r = 0x4009 := by decide
/-- EV21. -/
theorem test_setSalt_locked : stepAnswer 0x00000003 1 Regs.reset = some (2, 0, true) := by decide +kernel
/-- SV7's PERSP. -/
theorem test_setPersonal : let r := regsAfter (.setPersonal 0 0x1716151413121110) (readyRegs 64 0)
    r.pers[0] = 0x1716151413121110 ∧ r.pers[1] = 0 ∧ statusWord r = 0x4011 := by decide
/-- EV22. -/
theorem test_setPersonal_locked : stepAnswer 0x00000004 1 (activeRegs 5) = some (2, 0, true) := by decide +kernel
/-- SV3: the first use. -/
theorem test_update_first_use : let r := regsAfter (.update 3 0x636261) (readyRegs 64 0)
    statusWord r = 0x0000000300004002 ∧ r.buf[0] = 0x61 ∧ r.buf[2] = 0x63 ∧ r.h[0] = 0x6A09E667F2BDC948 := by
  decide +kernel
/-- BV5: a command that completes a block. -/
theorem test_update_overflow : let r := regsAfter (.update 8 0x0706050403020100) (activeRegs 125)
    r.off = 5 ∧ r.buf[125] = 0 ∧ r.buf[127] = 2 ∧ r.buf[0] = 3 ∧ r.buf[4] = 7 ∧ r.t0 = 0x80 := by decide +kernel
/-- W1, SV4. -/
theorem test_finalize : let r := regsAfter .finalize abcRegs
    r.dig[0] = 0x0D4D1C983FA580BA ∧ r.h[0] = 0x6A09E667F2BDC948 ∧ statusWord r = 0x4006 := by decide +kernel
/-- EV20. -/
theorem test_finalize_uncfg : stepAnswer 0x00000006 0 Regs.reset = some (2, 0, true) := by decide +kernel
theorem test_readDigest : answerOf (.readDigest 0) latchedRegs = some (0, 0x0D4D1C983FA580BA) := by decide
/-- EV24. -/
theorem test_readDigest_empty : stepAnswer 0x00000007 0 (readyRegs 64 0) = some (2, 0, true) := by decide +kernel
/-- SV8. -/
theorem test_readStatus : answerOf .readStatus (activeRegs 128) = some (0, 0x0000008000004002) := by decide
theorem test_readCounter : answerOf (.readCounter 0) { activeRegs 1 with t0 := 0x80, t1 := 5 } = some (0, 0x80) ∧
    answerOf (.readCounter 1) { activeRegs 1 with t0 := 0x80, t1 := 5 } = some (0, 5) := by decide
/-- EV32. -/
theorem test_nop : stepAnswer 0 7 Regs.reset = some (0, 0, true) := by decide +kernel
/-- EV14: the word is decoded before the digest latch is looked at. -/
theorem test_illegal_first : stepAnswer 0x00000807 0 (activeRegs 5) = some (3, 0, true) := by decide +kernel

/-- R93: "UPDS" of nine bytes is one UPD of 8 and one of 1. -/
theorem test_upds : expandUpds [0, 1, 2, 3, 4, 5, 6, 7, 8] = [.update 8 0x0706050403020100, .update 1 8] := by decide

/-! Witnesses -/

theorem inSpec_stateOf_ready (a b : Byte) : (stateOf (readyRegs a b)).regs.inSpec = true := rfl

theorem witness_DecodeEncodeRoundTrip : ∀ i ∈ [Instr.nop, .config 255 255, .loadKey 7 1, .setSalt 1 1, .setPersonal 1 1,
    .update 8 1, .finalize, .readDigest 7, .readStatus, .readCounter 1], i.wellFormed = true := by decide

theorem witness_EncodeDecodeCanonical :
    decode ⟨0x00000805, 3⟩ = .ok (.update 8 3) ∧ decode ⟨0x00FFFF01, 3⟩ = .ok (.config 255 255) := by decide

theorem witness_DecodeMatchesOpcodeTable : (⟨"UPDATE", 0x00000005, 0xFFFFF0FF⟩ : OpcodeRow) ∈ opcodeRows := by decide

theorem witness_IllegalWordsExactly : (stateOf (activeRegs 128)).regs.inSpec = true := by decide

theorem witness_IgnoredDataMakesNoDifference :
    (decode ⟨0x00000006, 3⟩ = .ok .finalize ∧ carriesData .finalize = false) ∧
    (∀ j, j < 3 → byteLane 0x00000000FF636261 j = byteLane 0x00000000AA636261 j) := by decide

theorem witness_AssemblerAgreesWithEncoder : (Instr.update 8 1).wellFormed = true := by decide

theorem witness_StepRunsDecodedCommand :
    (∃ (s : State) (t : Transfer) (i : Instr), s.port = .executing t ∧ s.sample.reset = false ∧ decode t = .ok i) ∧
    (∃ i, decodeTableWord 96 (0x636261 * 2 ^ 32 + 0x305) = some i) :=
  ⟨⟨(stateOf Regs.reset).withTransfer ⟨0x6, 0⟩, ⟨0x6, 0⟩, .finalize, by decide⟩, .update 3 0x636261, by decide⟩

theorem witness_UnmatchedWordIsIllegal :
    let s := (stateOf (readyRegs 64 0)).withTransfer ⟨0x00000905, 0⟩
    s.port = .executing ⟨0x00000905, 0⟩ ∧ s.sample.reset = false ∧ s.regs.inSpec = true ∧
    ∀ row ∈ opcodeRows, row.matchesWord 0x00000905 = false := by decide

theorem witness_ResetWinsOverEverything :
    ({ (stateOf (activeRegs 5)) with inputs := [{ quietInput with reset := true }] } : State).sample.reset = true := by decide

/-- An idle state with and without a command offered, and a pending response with and without `rsp_ready`. -/
theorem witness_PortHandshake :
    let idle : State := { stateOf (activeRegs 128) with inputs := [{ quietInput with command := some ⟨0x8, 0⟩ }] }
    let quiet : State := stateOf (activeRegs 128)
    let pending : State := { quiet with port := .responding ⟨0, 1⟩ }
    let taken : State := { pending with inputs := [{ quietInput with rspReady := true }] }
    (∀ s ∈ [idle, quiet, pending, taken], s.sample.reset = false ∧ s.regs.inSpec = true) ∧
    idle.cmdReady = true ∧ idle.sample.command = some ⟨0x8, 0⟩ ∧ quiet.cmdReady = true ∧ quiet.sample.command = none ∧
    pending.rspValid = true ∧ pending.sample.rspReady = false ∧ taken.rspValid = true ∧ taken.sample.rspReady = true := by
  decide

theorem witness_OneResponsePerCommand : ∃ (s t : State) (i : Instr) (x0 x1 x2 : PortInput) (rest : List PortInput),
    s.port = .idle ∧ s.inputs = x0 :: x1 :: x2 :: rest ∧ i.wellFormed = true ∧ x0.command = some (encode i) ∧
    x0.reset = false ∧ x1.reset = false ∧ x2.reset = false ∧ x2.rspReady = true ∧
    exec i { s with inputs := x2 :: rest } = .next t :=
  ⟨{ stateOf (readyRegs 64 0) with inputs := [{ quietInput with command := some ⟨0x8, 0⟩ }, quietInput,
      { quietInput with rspReady := true }] }, _, .readStatus, _, _, _, _, rfl, rfl, rfl, rfl, rfl, rfl, rfl, rfl, rfl⟩

/-- In UNCFG and at the boundary `OFF = 128`: NOP, READ_STATUS and READ_COUNTER have no other hypothesis. -/
theorem witness_NopOnlyAnswers : State.reset.regs.inSpec = true ∧ (stateOf (activeRegs 128)).regs.inSpec = true := by decide

theorem witness_ReadStatusReturnsFields : (stateOf (activeRegs 128)).regs.inSpec = true := by decide

theorem witness_ReadCounterReturnsCounter : (stateOf (activeRegs 128)).regs.inSpec = true := by decide

theorem witness_ReadDigestReturnsLatch :
    (latchedRegs.inSpec = true ∧ latchedRegs.digv = true ∧ (63 : Fin 64).val = 8 * (7 : Fin 8).val + (7 : Fin 8).val) ∧
    (Regs.reset.inSpec = true ∧ Regs.reset.digv = false) := by decide

theorem witness_ConfigStartsFreshEngine : ∀ a ∈ [(1 : Byte), 64], ∀ b ∈ [(0 : Byte), 64],
    (activeRegs 128).inSpec = true ∧ 1 ≤ a.toNat ∧ a.toNat ≤ 64 ∧ b.toNat ≤ 64 := by decide

theorem witness_ConfigErrorExactly :
    (∃ t r, exec (.config 65 0) (stateOf (activeRegs 5)) = .next t ∧ t.port = .responding r) ∧
    (∃ t r, exec .nop (stateOf (activeRegs 5)) = .next t ∧ t.port = .responding r) ∧
    ((activeRegs 5).inSpec = true ∧ (0 : Byte).toNat < 1 ∧ 64 < (65 : Byte).toNat) :=
  ⟨⟨_, _, rfl, rfl⟩, ⟨_, _, rfl, rfl⟩, by decide⟩

theorem witness_LoadKeyWritesEightBytes : (readyRegs 64 64).inSpec = true ∧ (readyRegs 64 64).ph = .ready ∧
    (63 : Fin 64).val = 8 * (7 : Fin 8).val + (7 : Fin 8).val ∧ (55 : Fin 64).val < 8 * (7 : Fin 8).val ∧
    8 * (0 : Fin 8).val + 8 ≤ (8 : Fin 64).val := by decide

theorem witness_SetSaltWritesHalf : (readyRegs 64 0).inSpec = true ∧ (readyRegs 64 0).ph = .ready := by decide

theorem witness_SetPersonalWritesHalf : (readyRegs 64 0).inSpec = true ∧ (readyRegs 64 0).ph = .ready := by decide

/-- One state for each of the three kinds of case. -/
theorem witness_SequenceErrorExactly :
    (∃ t r, exec (.update 0 0) State.reset = .next t ∧ t.port = .responding r) ∧
    (∃ t r, exec (.loadKey 7 0) (stateOf (activeRegs 5)) = .next t ∧ t.port = .responding r) ∧
    (∃ t r, exec (.readDigest 7) (stateOf (readyRegs 64 0)) = .next t ∧ t.port = .responding r) :=
  ⟨⟨_, _, rfl, rfl⟩, ⟨_, _, rfl, rfl⟩, ⟨_, _, rfl, rfl⟩⟩

theorem witness_ParametersLockedOutsideReady :
    (State.reset.regs.inSpec = true ∧ State.reset.regs.ph ≠ .ready) ∧
    ((activeRegs 128).inSpec = true ∧ (activeRegs 128).ph ≠ .ready) := by decide

theorem witness_EmptyUpdateIsNoOp : ((readyRegs 64 0).inSpec = true ∧ (readyRegs 64 0).ph ≠ .uncfg) ∧
    ((activeRegs 128).inSpec = true ∧ (activeRegs 128).ph ≠ .uncfg) := by decide

/-- In READY with one byte, and in ACTIVE with eight bytes that fill the buffer exactly. -/
theorem witness_UpdateFillsBuffer :
    (∃ r : Regs, (readyRegs 64 0).inSpec = true ∧ (readyRegs 64 0).ph ≠ .uncfg ∧ (readyRegs 64 0).keyFits = true ∧
      r = { (readyRegs 64 0).init with ph := .active } ∧ r.off.toNat + (1 : Fin 16).val ≤ 128) ∧
    ((activeRegs 120).inSpec = true ∧ (activeRegs 120).ph ≠ .uncfg ∧ (activeRegs 120).ph ≠ .ready ∧
      (activeRegs 120).off.toNat + (8 : Fin 16).val ≤ 128) :=
  ⟨⟨_, by decide, by decide, by decide, rfl, by decide⟩, by decide⟩

/-- In READY with a key (INIT leaves a full buffer), and in ACTIVE with the buffer one byte short. -/
theorem witness_UpdateCompressesFullBlock : ∀ d : Word,
    (∃ (r : Regs) (block : Vector Byte 128), (readyRegs 64 64).inSpec = true ∧ (readyRegs 64 64).ph = .ready ∧
      (readyRegs 64 64).keyFits = true ∧ r = { (readyRegs 64 64).init with ph := .active } ∧
      128 < r.off.toNat + (1 : Fin 16).val ∧
      ∀ p : Fin 128, block[p] = if r.off.toNat ≤ p.val then byteLane d (p.val - r.off.toNat) else r.buf[p]) ∧
    (∃ block : Vector Byte 128, (activeRegs 121).inSpec = true ∧ (activeRegs 121).ph = .active ∧
      128 < (activeRegs 121).off.toNat + (8 : Fin 16).val ∧
      ∀ p : Fin 128, block[p] = if (activeRegs 121).off.toNat ≤ p.val then
        byteLane d (p.val - (activeRegs 121).off.toNat) else (activeRegs 121).buf[p]) := by
  intro d
  have h : ∀ r : Regs, ∃ block : Vector Byte 128, ∀ p : Fin 128,
      block[p] = if r.off.toNat ≤ p.val then byteLane d (p.val - r.off.toNat) else r.buf[p] :=
    fun r => ⟨Vector.ofFn fun p => if r.off.toNat ≤ p.val then byteLane d (p.val - r.off.toNat) else r.buf[p],
      fun p => by simp⟩
  obtain ⟨b, hb⟩ := h { (readyRegs 64 64).init with ph := .active }
  obtain ⟨c, hc⟩ := h (activeRegs 121)
  exact ⟨⟨_, b, by decide, by decide, by decide, rfl, by decide, hb⟩, c, by decide, by decide, by decide, hc⟩

theorem exec_update_ready (n : Fin 16) (d : Word) (h1 : 1 ≤ n.val) (h8 : n.val ≤ 8) :
    ∃ t, exec (.update n d) (stateOf (readyRegs 64 0)) = .next t :=
  ⟨_, execUpdate_of_bytes rfl (by decide) (fun _ => by decide) h1 h8⟩

theorem exec_update_active (n : Fin 16) (d : Word) (h1 : 1 ≤ n.val) (h8 : n.val ≤ 8) :
    ∃ t, exec (.update n d) (stateOf (activeRegs 128)) = .next t :=
  ⟨_, execUpdate_of_bytes (by decide) (by decide) (fun _ => by decide) h1 h8⟩

theorem exec_finalize_ready : ∃ t, exec .finalize (stateOf (readyRegs 64 0)) = .next t :=
  ⟨_, execFinalize_of_configured rfl (by decide) (by decide)⟩

theorem witness_UpdateWithholdsLastBlock (d : Word) :
    ((readyRegs 64 0).ph ≠ .uncfg ∧ ∃ t, exec (.update 1 d) (stateOf (readyRegs 64 0)) = .next t) ∧
    ((activeRegs 128).ph ≠ .uncfg ∧ ∃ t, exec (.update 8 d) (stateOf (activeRegs 128)) = .next t) :=
  ⟨⟨by decide, exec_update_ready 1 d (by decide) (by decide)⟩, by decide, exec_update_active 8 d (by decide) (by decide)⟩

theorem witness_CounterAndOffsetCountBytes (d : Word) :
    ((readyRegs 64 0).ph = .ready ∧ ∃ t, exec (.update 1 d) (stateOf (readyRegs 64 0)) = .next t) ∧
    ((activeRegs 128).ph = .active ∧ ∃ t, exec (.update 8 d) (stateOf (activeRegs 128)) = .next t) :=
  ⟨⟨rfl, exec_update_ready 1 d (by decide) (by decide)⟩, rfl, exec_update_active 8 d (by decide) (by decide)⟩

theorem witness_InitBuildsBaseline : (readyRegs 64 64).keyFits = true ∧
    ((127 : Fin 128).val = 127 ∧ (63 : Fin 128).val = (63 : Fin 64).val ∧
      (63 : Fin 64).val < (readyRegs 64 64).keylen.toNat ∧ (readyRegs 64 64).keylen.toNat ≤ (64 : Fin 128).val) := by decide

/-- The padded block of any registers. -/
theorem exists_padded (r : Regs) :
    ∃ block : Vector Byte 128, ∀ p : Fin 128, block[p] = if p.val < r.off.toNat then r.buf[p] else 0 :=
  ⟨Vector.ofFn fun p => if p.val < r.off.toNat then r.buf[p] else 0, fun p => by simp⟩

theorem witness_FinalizeLatchesDigest : ∀ r ∈ [readyRegs 64 64, activeRegs 128, activeRegs 1],
    ∃ (r' c : Regs) (block : Vector Byte 128), r.inSpec = true ∧ r.keyFits = true ∧ r.ph ≠ .uncfg ∧
      r' = (if r.ph = .ready then r.init else r) ∧ c = r'.ctrInc r'.off ∧
      ∀ p : Fin 128, block[p] = if p.val < r'.off.toNat then r'.buf[p] else 0 := by
  intro r hr
  obtain ⟨b, hb⟩ := exists_padded (if r.ph = .ready then r.init else r)
  have h : r.inSpec = true ∧ r.keyFits = true ∧ r.ph ≠ .uncfg := by
    simp only [List.mem_cons, List.not_mem_nil, or_false] at hr
    rcases hr with rfl | rfl | rfl <;> decide
  exact ⟨_, _, b, h.1, h.2.1, h.2.2, rfl, rfl, hb⟩

/-- READY with a key of 64 bytes and without a key, and ACTIVE at the baseline. -/
theorem witness_FinalizeOfEmptyMessage :
    ∀ r ∈ [readyRegs 64 64, readyRegs 64 0, { (readyRegs 64 64).init with ph := .active }],
      r.inSpec = true ∧ r.keyFits = true ∧ (r.ph = .ready ∨ (r.ph = .active ∧ r = r.init)) ∧
      (∀ (p : Fin 128) (q : Fin 64), p.val = q.val → q.val < r.keylen.toNat → r.baselineBuf[p] = r.key[q]) ∧
      (∀ p : Fin 128, r.keylen.toNat ≤ p.val → r.baselineBuf[p] = 0) := by
  intro r hr
  refine ⟨?_, ?_, ?_, ?_, ?_⟩
  · simp only [List.mem_cons, List.not_mem_nil, or_false] at hr
    rcases hr with rfl | rfl | rfl <;> decide
  · simp only [List.mem_cons, List.not_mem_nil, or_false] at hr
    rcases hr with rfl | rfl | rfl <;> decide
  · simp only [List.mem_cons, List.not_mem_nil, or_false] at hr
    rcases hr with rfl | rfl | rfl
    · exact .inl rfl
    · exact .inl rfl
    · exact .inr ⟨rfl, rfl⟩
  · intro p q e h
    have h64 : p.val < 64 := e ▸ q.isLt
    simp [Regs.baselineBuf, e, h]
  · intro p h
    simp [Regs.baselineBuf, Nat.not_lt.2 h]

theorem witness_ConfiguredCommandsAnswerOk : (activeRegs 128).inSpec = true ∧ (activeRegs 128).keyFits = true ∧
    (activeRegs 128).ph ≠ .uncfg ∧ (Instr.update 8 0).wellFormed = true ∧ (Instr.finalize).wellFormed = true ∧
    (readyRegs 64 64).inSpec = true ∧ (readyRegs 64 64).keyFits = true ∧ (readyRegs 64 64).ph ≠ .uncfg := by decide

theorem witness_PhaseTableHolds (d : Word) : (∃ t, exec (.update 8 d) (stateOf (activeRegs 128)) = .next t) ∧
    (∃ t, exec .finalize (stateOf (readyRegs 64 0)) = .next t) :=
  ⟨exec_update_active 8 d (by decide) (by decide), exec_finalize_ready⟩

theorem witness_ErrorsChangeNothing :
    (∃ t r, runTransfer ⟨0x00000905, 0⟩ State.reset = .next t ∧ t.port = .responding r ∧ r.status ≠ 0x00) ∧
    (∃ t r, runTransfer ⟨0x00000006, 0⟩ State.reset = .next t ∧ t.port = .responding r ∧ r.status ≠ 0x00) :=
  ⟨⟨_, _, rfl, rfl, by decide⟩, _, _, rfl, rfl, by decide⟩

theorem witness_ResultDataZeroExceptReads :
    (∃ t r, runTransfer ⟨0x00000000, 0⟩ State.reset = .next t ∧ t.port = .responding r) ∧
    (∃ t r, runTransfer ⟨0x00000707, 0⟩ (stateOf latchedRegs) = .next t ∧ t.port = .responding r) :=
  ⟨⟨_, _, rfl, rfl⟩, _, _, rfl, rfl⟩

/-- A command that writes, and one outside each of the lists of the statement. -/
theorem witness_CommandWriteMatrix :
    (∃ t, exec (.config 64 64) (stateOf (activeRegs 128)) = .next t) ∧
    (Instr.readStatus.mnemonic ∉ ["CONFIG", "UPDATE", "FINALIZE"] ∧ Instr.readStatus.mnemonic ∉ ["CONFIG", "LOAD_KEY"] ∧
      Instr.readStatus.mnemonic ∉ ["CONFIG", "SET_SALT"] ∧ Instr.readStatus.mnemonic ∉ ["CONFIG", "SET_PERSONAL"] ∧
      Instr.readStatus.mnemonic ∉ ["CONFIG", "FINALIZE"] ∧
      ∃ t, exec .readStatus (stateOf (activeRegs 128)) = .next t) :=
  ⟨⟨_, rfl⟩, by decide, by decide, by decide, by decide, by decide, _, rfl⟩

theorem witness_ReadCommandsArePure : Instr.readStatus.mnemonic ∈ ["READ_DIGEST", "READ_STATUS", "READ_COUNTER"] ∧
    ∃ t, exec .readStatus (stateOf (activeRegs 128)) = .next t := ⟨by decide, _, rfl⟩

/-- With a command in execution that is neither FINALIZE nor CONFIG, and with a CONFIG that is refused. -/
theorem witness_DigestLatchKept : ∀ c ∈ [(0x00000000 : BitVec 32), 0x00004101],
    ∃ s t : State, step s = .next t ∧ s.sample.reset = false ∧
      ∀ x i, s.port = .executing x → decode x = .ok i → i.mnemonic ∈ ["FINALIZE", "CONFIG"] →
        expectedStatus i s.regs ≠ .ok := by
  intro c hc
  refine ⟨(stateOf latchedRegs).withTransfer ⟨c, 0⟩, ?_⟩
  simp only [List.mem_cons, List.not_mem_nil, or_false] at hc
  rcases hc with rfl | rfl
  · refine ⟨_, rfl, rfl, fun x i hx hd hi => ?_⟩
    cases hx
    have e : i = .nop := by simpa [decode, fieldOpc, fieldA, fieldB, fieldRsv, decodePlain, eq_comm] using hd
    subst e
    exact absurd hi (by decide)
  · refine ⟨_, rfl, rfl, fun x i hx hd _ => ?_⟩
    cases hx
    have e : i = .config 65 0 := by simpa [decode, fieldOpc, fieldA, fieldB, fieldRsv, eq_comm] using hd
    subst e
    decide

theorem witness_UnreachableStatesFault : (activeRegs 129).inSpec = false ∧
    ({ activeRegs 0 with ph := .unreachable3 } : Regs).inSpec = false ∧
    (stateOf (activeRegs 129)).sample.reset = false := by decide

theorem witness_KeyLengthBeyondStorageFaults : (readyRegs 64 65).inSpec = true ∧ (readyRegs 64 65).keyFits = false ∧
    (readyRegs 64 65).ph = .ready ∧ 1 ≤ (1 : Fin 16).val ∧ (8 : Fin 16).val ≤ 8 := by decide

/-- Two states that differ in `H`, `BUF` and `KEY`. -/
theorem witness_ResponsesHideSecrets : ∃ s s' : State, s.regs ≠ s'.regs ∧ s.regs.observable = s'.regs.observable ∧
    (∃ t, exec .readStatus s = .next t) ∧ ∃ t', exec .readStatus s' = .next t' :=
  ⟨stateOf (activeRegs 5), stateOf { (activeRegs 5) with h := iv, buf := Vector.replicate 128 1, key := Vector.replicate 64 1 },
    by decide +kernel, rfl, ⟨_, rfl⟩, _, rfl⟩

/-- Two states whose keys differ at position 3, with `KEYLEN = 3`. -/
theorem witness_UnusedKeyBytesIgnored (d : Word) :
    let s := stateOf (readyRegs 64 3)
    let s' := stateOf { readyRegs 64 3 with key := (Vector.replicate 64 0).set 3 1 }
    s.regs ≠ s'.regs ∧ { s'.regs with key := s.regs.key } = s.regs ∧ s'.port = s.port ∧ s'.inputs = s.inputs ∧
    (∀ p : Fin 64, p.val < s.regs.keylen.toNat → s'.regs.key[p] = s.regs.key[p]) ∧
    ∃ t, exec (.update 1 d) s = .next t :=
  ⟨by decide +kernel, rfl, rfl, rfl, by decide, _, execUpdate_of_bytes rfl (by decide) (fun _ => by decide) (by decide) (by decide)⟩

theorem runCommands_finalize {s : State} (hs : s.regs.inSpec = true) (hk : s.regs.keyFits = true)
    (hp : s.regs.ph ≠ .uncfg) :
    runCommands (updateCommands [] ++ [.finalize]) s
      = some (s.after s.regs.firstUse.finalized .ok 0, [{ status := 0x00, rdata := 0 }]) := by
  have h : exec .finalize s = _ := execFinalize_of_configured hs hk hp
  rw [updateCommands, List.map_nil, List.nil_append, runCommands_cons h]
  rfl

/-- READY with and without `SALTP` and `PERSP`, the words 0. -/
theorem witness_ZeroSaltGivesSameDigest :
    let r := readyRegs 64 0
    let r' : Regs := { r with saltp := true, persp := true }
    { r' with saltp := r.saltp, persp := r.persp } = r ∧ r.saltp ≠ r'.saltp ∧ r.salt = Vector.replicate 2 0 ∧
    r.persp ≠ r'.persp ∧ r.pers = Vector.replicate 2 0 ∧
    (∃ t rs, runCommands (updateCommands [] ++ [.finalize]) (stateOf r) = some (t, rs)) ∧
    ∃ t rs, runCommands (updateCommands [] ++ [.finalize]) (stateOf r') = some (t, rs) :=
  ⟨rfl, by decide, rfl, by decide, rfl, ⟨_, _, runCommands_finalize rfl (by decide) (by decide)⟩,
    _, _, runCommands_finalize rfl (by decide) (by decide)⟩

theorem witness_RotrMovesBits : (0 < 1 ∧ 1 < 64 ∧ 63 < 64) ∧ (0 < 63 ∧ 63 < 64 ∧ 0 < 64) := by decide

theorem witness_MixTouchesNamedSlots : ∀ (v : Vector Word 16) (x y : Word), let q : Slots := ⟨3, 4, 9, 14⟩
    ∃ a1 d1 c1 b1 a2 d2 c2 b2 : Word, [q.a, q.b, q.c, q.d].Nodup ∧
    a1 = v[q.a] + v[q.b] + x ∧ d1 = rotr (v[q.d] ^^^ a1) 32 ∧ c1 = v[q.c] + d1 ∧ b1 = rotr (v[q.b] ^^^ c1) 24 ∧
    a2 = a1 + b1 + y ∧ d2 = rotr (d1 ^^^ a2) 16 ∧ c2 = c1 + d2 ∧ b2 = rotr (b1 ^^^ c2) 63 ∧
    (0 : Fin 16) ∉ [q.a, q.b, q.c, q.d] :=
  fun _ _ _ => ⟨_, _, _, _, _, _, _, _, by decide, rfl, rfl, rfl, rfl, rfl, rfl, rfl, rfl, by decide⟩

theorem witness_MixingIsBijective : [(3 : Fin 16), 4, 9, 14].Nodup := by decide

theorem witness_SameKindMixingCommutes : ((0 : Fin 8).val < 4 ↔ (3 : Fin 8).val < 4) ∧
    ((4 : Fin 8).val < 4 ↔ (7 : Fin 8).val < 4) := by decide

theorem witness_CounterAddsModulo : (128 : Byte).toNat ≤ 128 ∧ (0 : Byte).toNat ≤ 128 := by decide

theorem witness_UpdateCompressesAtMostOnce : (activeRegs 128).inSpec = true ∧ 1 ≤ (1 : Fin 16).val ∧ (8 : Fin 16).val ≤ 8 ∧
    (activeRegs 128).ph ≠ .uncfg ∧ 128 < (activeRegs 128).off.toNat + (1 : Fin 16).val := by decide

/-- Not the reset state: a configured engine with salt, while a command is in execution. -/
theorem inv_ready : (readyRegs 64 64).Inv where
  off_le := by decide
  ph_legal := by decide
  idle_zero := fun _ => ⟨rfl, rfl, rfl, rfl, rfl⟩
  uncfg_zero := fun h => absurd h (by decide)
  lengths := fun _ => by decide
  counter_aligned := by decide
  empty_baseline := fun h => absurd h (by decide)
  digest_truncated := fun h => absurd h (by decide)
  digest_empty := fun _ => rfl
  digest_only_active := fun _ => rfl

theorem witness_StepKeepsInvariants : ∃ s t : State, s.Inv ∧ step s = .next t ∧ s.regs ≠ t.regs := by
  have h : step ((stateOf (readyRegs 64 64)).withTransfer ⟨0x00000103, 7⟩)
    = .next { regs := (readyRegs 64 64).withSaltWord 1 7, port := .responding ⟨0x00, 0⟩, inputs := [] } := rfl
  exact ⟨(stateOf (readyRegs 64 64)).withTransfer ⟨0x00000103, 7⟩, _, inv_ready, h, by decide +kernel⟩

theorem witness_InvariantStatesNeverStop : (stateOf (readyRegs 64 64)).Inv := inv_ready

/-- Nine bytes, as 8 and 1 and as 4 and 5. -/
theorem witness_ChunkingInvariance :
    let us : List (Fin 16 × Word) := [(8, 0x0706050403020100), (1, 0x08)]
    let vs : List (Fin 16 × Word) := [(4, 0x03020100), (5, 0x0807060504)]
    (∀ u ∈ us, 1 ≤ u.1.val ∧ u.1.val ≤ 8) ∧ (∀ v ∈ vs, 1 ≤ v.1.val ∧ v.1.val ≤ 8) ∧ updateBytes us = updateBytes vs ∧
    ∃ p, runCommands (updateCommands us) (stateOf (activeRegs 125)) = some p := by
  refine ⟨by simp, by simp, by decide +kernel, ?_⟩
  obtain ⟨t, rs, h, _⟩ := runCommands_updates [(8, 0x0706050403020100), (1, 0x08)] (stateOf (activeRegs 125)) (by decide)
    (by decide) (fun _ => by decide) (by simp)
  exact ⟨_, h⟩

/-- An active keyed engine with salt, and the fresh engine with the same parameters. -/
theorem witness_ReuseEqualsFreshEngine :
    let r : Regs := { readyRegs 64 64 with ph := .active, off := 128, salt := Vector.replicate 2 5, saltp := true }
    r.ph ≠ .uncfg ∧ (∀ u ∈ [((8 : Fin 16), (7 : Word)), (0, 1)], u.1.val ≤ 8) ∧ r.inSpec = true ∧ r.keyFits = true ∧
    (∃ f : State, f.regs = { Regs.configured r.outlen r.keylen with
      key := r.key, salt := r.salt, saltp := r.saltp, pers := r.pers, persp := r.persp }) ∧
    ∃ t, exec .finalize (stateOf r) = .next t :=
  ⟨by decide, by simp, by decide, by decide, ⟨stateOf _, rfl⟩, _,
    execFinalize_of_configured (by decide) (by decide) (by decide)⟩

/-- The longest key, salt and personalization, and the shortest ones, with output lengths 1 and 64. -/
theorem witness_SessionComputesBlake2b :
    (State.reset.regs.inSpec = true ∧ (1 : Nat) ≤ 64) ∧ (List.replicate 64 (5 : Byte)).length ≤ 64 ∧
    (∀ x, some (List.replicate 16 (6 : Byte)) = some x → x.length = 16) ∧ (∀ x, (none : Option (List Byte)) = some x → x.length = 16) ∧
    (∀ u ∈ [((8 : Fin 16), (0x0706050403020100 : Word)), (0, 9), (1, 8)], u.1.val ≤ 8) ∧
    updateBytes [(8, 0x0706050403020100), (0, 9), (1, 8)] = [0, 1, 2, 3, 4, 5, 6, 7, 8] :=
  ⟨by decide, by decide, by simp, by simp, by simp, by decide +kernel⟩

end Sys2Proof.Tests
end

section
/-! PROOFS. The step while a command is in execution (O9), and rotation bit by bit (O45). -/

namespace Sys2Proof.Machine

@[simp] theorem State.withTransfer_sample_reset (s : State) (t : Transfer) :
    (s.withTransfer t).sample.reset = false := by
  cases h : s.inputs <;> simp [State.sample, withoutResetNow, h, PortInput.withoutReset, quietInput]

theorem State.withTransfer_advance (s : State) (t : Transfer) :
    (s.withTransfer t).advance = { s with port := .executing t, inputs := s.inputs.tail } := by
  cases h : s.inputs <;> simp [State.withTransfer, State.advance, withoutResetNow, h]

theorem decode_of_decodeTableWord {nbits w : Nat} {i : Instr} (h : decodeTableWord nbits w = some i) :
    decode (tableTransfer nbits w) = .ok i := by
  unfold decodeTableWord at h
  split at h <;> cases h
  assumption

/-- R14, R82: with no reset, a step in which the port holds a transfer that decodes to `i` executes `i`. -/
theorem step_of_executing {s : State} {t : Transfer} {i : Instr} (hp : s.port = .executing t)
    (hr : s.sample.reset = false) (hd : decode t = .ok i) : step s = exec i s.advance := by
  simp [step, hr, hp, runTransfer, hd]

/-- Settles O9, by the step's case of a port in execution, which the state of `withFetchWord` is in. -/
theorem stepRunsDecodedCommand : Obligations.StepRunsDecodedCommand := by
  refine ⟨fun s t i hp hr hd => step_of_executing hp hr hd, fun s nbits w i h => ?_⟩
  have hd := decode_of_decodeTableWord h
  rw [State.withFetchWord, step_of_executing rfl (s.withTransfer_sample_reset _) hd, State.withTransfer_advance]

/-- Settles O45: below `64 - n` the bit comes from the right shift, from there on from the left shift. -/
theorem rotrMovesBits : Obligations.RotrMovesBits := by
  intro w n i hn hn64 hi
  rw [rotr, BitVec.getLsbD_or, BitVec.getLsbD_ushiftRight, BitVec.getLsbD_shiftLeft]
  by_cases h : i < 64 - n
  · rw [Nat.mod_eq_of_lt (by omega : i + n < 64)]
    simp [h, Nat.add_comm]
  · have hw : w.getLsbD (n + i) = false := BitVec.getLsbD_of_ge w _ (by omega)
    have hm : (i + n) % 64 = i - (64 - n) := by omega
    simp [h, hi, hw, hm]

end Sys2Proof.Machine
end

section
/-! PROOFS. Runs in which every command answers `(OK, 0)`: how they compose, and the UPDATEs of a message. -/

namespace Sys2Proof.Machine

/-- The run of `is` from `s` ends with the registers `r`, every response on the way being `(OK, 0)`. -/
def RunsOk (is : List Instr) (s : State) (r : Regs) : Prop :=
  ∃ t rs, runCommands is s = some (t, rs) ∧ t.regs = r ∧ ∀ x ∈ rs, x = { status := 0x00, rdata := 0 }

theorem runsOk_nil (s : State) : RunsOk [] s s.regs := ⟨s, [], rfl, rfl, by simp⟩

theorem runsOk_cons {i : Instr} {is : List Instr} {s : State} {r r' : Regs} (h : exec i s = .next (s.after r .ok 0))
    (hr : RunsOk is (s.after r .ok 0) r') : RunsOk (i :: is) s r' := by
  obtain ⟨t, rs, hrun, ht, hok⟩ := hr
  refine ⟨t, _, by rw [runCommands_cons h, hrun]; rfl, ht, ?_⟩
  simpa [Status.code] using hok

theorem runsOk_single {i : Instr} {s : State} {r : Regs} (h : exec i s = .next (s.after r .ok 0)) :
    RunsOk [i] s r :=
  runsOk_cons h (runsOk_nil _)

/-- A run that goes through, taken apart at its first command. -/
theorem runCommands_cons_some {i : Instr} {is : List Instr} {s t : State} {rs : List Response}
    (h : runCommands (i :: is) s = some (t, rs)) :
    ∃ s' rs', exec i s = .next s' ∧ runCommands is s' = some (t, rs') ∧ rs = s'.response.toList ++ rs' := by
  simp only [runCommands] at h
  split at h
  · obtain ⟨⟨t', rs'⟩, hrest, heq⟩ := Option.map_eq_some_iff.1 h
    cases heq
    exact ⟨_, rs', ‹_›, hrest, rfl⟩
  · cases h
  · cases h

/-- The state in which such a run ends: whatever runs on from there continues the run. -/
theorem RunsOk.exists_end {is : List Instr} {s : State} {r : Regs} (h : RunsOk is s r) :
    ∃ t : State, t.regs = r ∧ ∀ {js : List Instr} {r' : Regs}, RunsOk js t r' → RunsOk (is ++ js) s r' := by
  obtain ⟨t, rs, hrun, ht, hok⟩ := h
  induction is generalizing s rs with
  | nil =>
    cases hrun
    exact ⟨_, ht, id⟩
  | cons i is ih =>
    obtain ⟨s', rs', hi, hrest, rfl⟩ := runCommands_cons_some hrun
    obtain ⟨e, he, hext⟩ := ih rs' hrest fun x hx => hok x (List.mem_append_right _ hx)
    refine ⟨e, he, fun hj => ?_⟩
    obtain ⟨u, us, hu, hur, huok⟩ := hext hj
    refine ⟨u, s'.response.toList ++ us, by rw [List.cons_append, runCommands_cons hi, hu]; rfl, hur, fun x hx => ?_⟩
    exact (List.mem_append.1 hx).elim (fun h => hok x (List.mem_append_left _ h)) (huok x)

/-- R144: an UPDATE without bytes is a complete no-op outside UNCFG. -/
theorem execUpdate_of_zero {n : Fin 16} {d : Word} {s : State} (hs : s.regs.inSpec = true) (hp : s.regs.ph ≠ .uncfg)
    (h0 : n.val = 0) : execUpdate n d s = .next (s.after s.regs .ok 0) := by
  unfold execUpdate
  rw [guarded_of_inSpec hs, if_neg (by omega), if_neg hp, if_pos h0]
  rfl

/-- UPDATEs, empty ones among them, leave what absorbing their bytes after the first use leaves, up to a first use still to
come where there was no byte. -/
theorem runsOk_updates (us : List (Fin 16 × Word)) {s : State} (hs : s.regs.inSpec = true) (hp : s.regs.ph ≠ .uncfg)
    (hk : s.regs.keyFits = true) (hu : ∀ u ∈ us, u.1.val ≤ 8) :
    ∃ r, RunsOk (updateCommands us) s r ∧ r.inSpec = true ∧ r.ph ≠ .uncfg ∧ r.keyFits = true ∧
      r.firstUse = s.regs.firstUse.absorbAll (updateBytes us) := by
  induction us generalizing s with
  | nil => exact ⟨s.regs, runsOk_nil s, hs, hp, hk, rfl⟩
  | cons u us ih =>
    have hu' : ∀ v ∈ us, v.1.val ≤ 8 := fun v hv => hu v (by simp [hv])
    by_cases h0 : u.1.val = 0
    · obtain ⟨r, hrun, hinSpec, hconf, hfits, hfirst⟩ := ih (s := s.after s.regs .ok 0) hs hp hk hu'
      refine ⟨r, runsOk_cons (execUpdate_of_zero hs hp h0) hrun, hinSpec, hconf, hfits, hfirst.trans ?_⟩
      simp [updateBytes, messageBytes, h0]
    · obtain ⟨ha, hact⟩ := Regs.used_inSpec hs hp (messageBytes u.2 u.1)
      have hkl := (s.regs.firstUse.absorbAll_sameParameters (messageBytes u.2 u.1)).keylen
      obtain ⟨r, hrun, hinSpec, hconf, hfits, hfirst⟩ := ih
        (s := s.after (s.regs.firstUse.absorbAll (messageBytes u.2 u.1)) .ok 0) ha (by simp [hact])
        (by simpa [Regs.keyFits, hkl] using hk) hu'
      refine ⟨r, runsOk_cons (execUpdate_of_bytes hs hp (fun _ => hk) (by omega) (hu u (by simp))) hrun, hinSpec, hconf,
        hfits, hfirst.trans ?_⟩
      simp [updateBytes, Regs.firstUse_used hs hp, Regs.absorbAll_append]

end Sys2Proof.Machine
end

section
/-! PROOFS. The byte strings of the host in 8-byte words, and the commands that load the parameters: CONFIG, the LDKEYs of
`KEYS`, the lines of `SALTS` and `PERSS`. -/

namespace Sys2Proof.Machine

/-- R93: the first piece is the first 8 bytes, or all there is. -/
theorem chunks8_of_ne_nil : ∀ {s : List Byte}, s ≠ [] → chunks8 s = s.take 8 :: chunks8 (s.drop 8)
  | [], h => absurd rfl h
  | [_], _ | [_, _], _ | [_, _, _], _ | [_, _, _, _], _ | [_, _, _, _, _], _ | [_, _, _, _, _, _], _
  | [_, _, _, _, _, _, _], _ => rfl
  | _ :: _ :: _ :: _ :: _ :: _ :: _ :: _ :: _, _ => rfl

theorem byteLane_pieceWord (p : List Byte) {j : Nat} (h : j < 8) : byteLane (pieceWord p) j = p.getD j 0 :=
  byteLane_le64_of_lt _ h

/-- `KEYS s` from word `m` on: in READY only the key changes, to `s` from byte `8m` on, the bytes before it kept. -/
theorem runsOk_keys (s : List Byte) (m : Nat) (hm : 8 * m + s.length ≤ 64) {st : State} (hs : st.regs.inSpec = true)
    (hp : st.regs.ph = .ready) :
    ∃ key : Vector Byte 64, RunsOk (((chunks8 s).zipIdx m).map fun p => .loadKey (Fin.ofNat 8 p.2) (pieceWord p.1)) st
        { st.regs with key := key } ∧
      (∀ (p : Nat) (h : p < 64), p < 8 * m → key[p] = st.regs.key[p]) ∧
      (∀ (p : Nat) (h : p < 64), 8 * m ≤ p → p < 8 * m + s.length → key[p] = s.getD (p - 8 * m) 0) := by
  by_cases hnil : s = []
  · subst hnil
    exact ⟨st.regs.key, runsOk_nil st, fun _ _ _ => rfl, fun p _ h1 h2 => absurd h2 (by simpa using h1)⟩
  · have hpos : 0 < s.length := List.length_pos_iff.2 hnil
    have hk : (Fin.ofNat 8 m).val = m := Nat.mod_eq_of_lt (by omega)
    obtain ⟨key, hrun, hbelow, hfrom⟩ := runsOk_keys (s.drop 8) (m + 1) (by grind)
      (st := st.after (st.regs.withKeyWord (Fin.ofNat 8 m) (pieceWord (s.take 8))) .ok 0) hs hp
    refine ⟨key, ?_, fun p h hlt => ?_, fun p h hge hlt => ?_⟩
    · rw [chunks8_of_ne_nil hnil]
      exact runsOk_cons (execLoadKey_of_ready hs hp) hrun
    · rw [hbelow p h (by omega)]
      simp only [State.respond_regs, Regs.withKeyWord_key, getElem_writeKeyWord, hk]
      rw [if_neg (by omega)]
    · by_cases hfirst : p < 8 * (m + 1)
      · rw [hbelow p h hfirst]
        simp only [State.respond_regs, Regs.withKeyWord_key, getElem_writeKeyWord, hk]
        rw [if_pos (by omega), byteLane_pieceWord _ (by omega), show p % 8 = p - 8 * m by omega]
        grind
      · rw [hfrom p h (by omega) (by grind)]
        grind
termination_by s.length
decreasing_by grind

/-- The two words in which a string of 16 bytes is loaded. -/
def halves (x : List Byte) : Vector Word 2 := #v[pieceWord (x.take 8), pieceWord (x.drop 8)]

theorem set_set_eq_halves (v : Vector Word 2) (x : List Byte) :
    (v.set 0 (pieceWord (x.take 8))).set 1 (pieceWord (x.drop 8)) = halves x := by
  ext i hi
  match i, hi with
  | 0, _ | 1, _ => simp [halves]

/-- The registers with a salt, if one is given. -/
def Regs.withSalt (r : Regs) (salt : Option (List Byte)) : Regs :=
  { r with salt := salt.elim r.salt halves, saltp := salt.isSome || r.saltp }

/-- The registers with a personalization, if one is given. -/
def Regs.withPers (r : Regs) (pers : Option (List Byte)) : Regs :=
  { r with pers := pers.elim r.pers halves, persp := pers.isSome || r.persp }

theorem runsOk_salt (salt : Option (List Byte)) {s : State} (hs : s.regs.inSpec = true) (hp : s.regs.ph = .ready) :
    RunsOk (saltCommands salt) s (s.regs.withSalt salt) := by
  cases salt with
  | none => exact runsOk_nil s
  | some x =>
    have h : s.regs.withSalt (some x)
        = (s.regs.withSaltWord 0 (pieceWord (x.take 8))).withSaltWord 1 (pieceWord (x.drop 8)) := by
      simp [Regs.withSalt, Regs.withSaltWord, set_set_eq_halves]
    rw [h]
    exact runsOk_cons (execSetSalt_of_ready hs hp) (runsOk_single (execSetSalt_of_ready hs hp))

theorem runsOk_pers (pers : Option (List Byte)) {s : State} (hs : s.regs.inSpec = true) (hp : s.regs.ph = .ready) :
    RunsOk (persCommands pers) s (s.regs.withPers pers) := by
  cases pers with
  | none => exact runsOk_nil s
  | some x =>
    have h : s.regs.withPers (some x)
        = (s.regs.withPersWord 0 (pieceWord (x.take 8))).withPersWord 1 (pieceWord (x.drop 8)) := by
      simp [Regs.withPers, Regs.withPersWord, set_set_eq_halves]
    rw [h]
    exact runsOk_cons (execSetPersonal_of_ready hs hp) (runsOk_single (execSetPersonal_of_ready hs hp))

/-- The engine in READY with its lengths, its key storage, and the salt and personalization given. -/
def Regs.loaded (outlen keylen : Byte) (key : Vector Byte 64) (salt pers : Option (List Byte)) : Regs :=
  (({ Regs.configured outlen keylen with key := key } : Regs).withSalt salt).withPers pers

@[simp] theorem Regs.loaded_outlen (a b : Byte) (k : Vector Byte 64) (salt pers : Option (List Byte)) :
    (Regs.loaded a b k salt pers).outlen = a := rfl
@[simp] theorem Regs.loaded_keylen (a b : Byte) (k : Vector Byte 64) (salt pers : Option (List Byte)) :
    (Regs.loaded a b k salt pers).keylen = b := rfl
@[simp] theorem Regs.loaded_key (a b : Byte) (k : Vector Byte 64) (salt pers : Option (List Byte)) :
    (Regs.loaded a b k salt pers).key = k := rfl
@[simp] theorem Regs.loaded_ph (a b : Byte) (k : Vector Byte 64) (salt pers : Option (List Byte)) :
    (Regs.loaded a b k salt pers).ph = .ready := rfl
@[simp] theorem Regs.loaded_salt (a b : Byte) (k : Vector Byte 64) (salt pers : Option (List Byte)) :
    (Regs.loaded a b k salt pers).salt = salt.elim (Vector.replicate 2 0) halves := rfl
@[simp] theorem Regs.loaded_saltp (a b : Byte) (k : Vector Byte 64) (salt pers : Option (List Byte)) :
    (Regs.loaded a b k salt pers).saltp = salt.isSome := Bool.or_false _
@[simp] theorem Regs.loaded_pers (a b : Byte) (k : Vector Byte 64) (salt pers : Option (List Byte)) :
    (Regs.loaded a b k salt pers).pers = pers.elim (Vector.replicate 2 0) halves := rfl
@[simp] theorem Regs.loaded_persp (a b : Byte) (k : Vector Byte 64) (salt pers : Option (List Byte)) :
    (Regs.loaded a b k salt pers).persp = pers.isSome := Bool.or_false _
@[simp] theorem Regs.loaded_inSpec (a b : Byte) (k : Vector Byte 64) (salt pers : Option (List Byte)) :
    (Regs.loaded a b k salt pers).inSpec = true := rfl

theorem Regs.loaded_keyFits {b : Byte} (h : b.toNat ≤ 64) (a : Byte) (k : Vector Byte 64)
    (salt pers : Option (List Byte)) : (Regs.loaded a b k salt pers).keyFits = true :=
  decide_eq_true h

/-- A byte holds a length of at most 64. -/
theorem toNat_ofNat_of_le {n : Nat} (h : n ≤ 64) : (BitVec.ofNat 8 n).toNat = n := by
  rw [BitVec.toNat_ofNat, Nat.mod_eq_of_lt (by omega)]

/-- CONFIG and the parameter commands load the engine; the key storage then starts with the key. -/
theorem runsOk_parameters {s : State} {n : Nat} {key : List Byte} (salt pers : Option (List Byte))
    (hs : s.regs.inSpec = true) (h1 : 1 ≤ n) (h64 : n ≤ 64) (hk : key.length ≤ 64) :
    ∃ k : Vector Byte 64, (∀ (p : Nat) (h : p < 64), p < key.length → k[p] = key.getD p 0) ∧
      RunsOk ([.config (BitVec.ofNat 8 n) (BitVec.ofNat 8 key.length)] ++ expandKeys key ++ saltCommands salt
        ++ persCommands pers) s (Regs.loaded (BitVec.ofNat 8 n) (BitVec.ofNat 8 key.length) k salt pers) := by
  have hconfig : RunsOk [.config (BitVec.ofNat 8 n) (BitVec.ofNat 8 key.length)] s
      (Regs.configured (BitVec.ofNat 8 n) (BitVec.ofNat 8 key.length)) :=
    runsOk_single (execConfig_of_range hs (by rwa [toNat_ofNat_of_le h64]) (by rwa [toNat_ofNat_of_le h64])
      (by rwa [toNat_ofNat_of_le hk]))
  obtain ⟨t₁, h₁, hafterConfig⟩ := hconfig.exists_end
  obtain ⟨k, hkeys, -, hk'⟩ := runsOk_keys key 0 (by omega) (st := t₁) (by rw [h₁]; rfl) (by rw [h₁]; rfl)
  obtain ⟨t₂, h₂, hafterKeys⟩ := (hafterConfig hkeys).exists_end
  rw [h₁] at h₂
  obtain ⟨t₃, h₃, hafterSalt⟩ := (hafterKeys (runsOk_salt salt (by rw [h₂]; rfl) (by rw [h₂]; rfl))).exists_end
  rw [h₂] at h₃
  have hall := hafterSalt (runsOk_pers pers (by rw [h₃]; rfl) (by rw [h₃]; rfl))
  rw [h₃] at hall
  exact ⟨k, fun p h hlt => by simpa using hk' p h (by omega) (by omega), hall⟩

end Sys2Proof.Machine
end

section
/-! PROOFS. INIT builds the reference's first chaining state. -/

namespace Sys2Proof.Machine

/-- R181: the parameter word is the first eight parameter bytes. -/
theorem pieceWord_lengths (a b : Byte) : pieceWord [a, b, 1, 1, 0, 0, 0, 0] = parameterWord a b := by
  have h : (0#8 ++ 0#8 ++ 0#8 ++ 0#8 ++ 1#8 ++ 1#8 ++ b ++ a : BitVec (8 + 8 + 8 + 8 + 8 + 8 + 8 + 8))
      = 0x01010000#(8 + 8 + 8 + 8 + 8 + 8 + 8 + 8) ||| (b.setWidth _ <<< 8) ||| a.setWidth _ := by
    ext i hi
    simp only [BitVec.getElem_or, BitVec.getElem_append, BitVec.getElem_shiftLeft, BitVec.getElem_setWidth]
    interval_cases i <;> simp
  exact h

/-- The two words of an optional string, 0 where there is none: what the string of zeros that stands for it holds. -/
theorem halves_getD (x : Option (List Byte)) :
    halves (x.getD (List.replicate 16 0)) = x.elim (Vector.replicate 2 0) halves := by
  cases x with
  | none => decide
  | some s => rfl

theorem length_getD_replicate {x : Option (List Byte)} (hx : ∀ s, x = some s → s.length = 16) :
    (x.getD (List.replicate 16 0)).length = 16 := by
  cases x with
  | none => rfl
  | some s => exact hx s rfl

/-- R181, R182: the eight parameter words. -/
theorem pieceWord_parameterBytes {n k : Nat} {salt pers : Option (List Byte)}
    (hs : ∀ x, salt = some x → x.length = 16) (hp : ∀ x, pers = some x → x.length = 16) (i : Fin 8) :
    pieceWord (((parameterBytes n k salt pers).drop (8 * i.val)).take 8) =
      #v[parameterWord (BitVec.ofNat 8 n) (BitVec.ofNat 8 k), 0, 0, 0,
        (salt.elim (Vector.replicate 2 0) halves)[0], (salt.elim (Vector.replicate 2 0) halves)[1],
        (pers.elim (Vector.replicate 2 0) halves)[0], (pers.elim (Vector.replicate 2 0) halves)[1]][i] := by
  have hx := length_getD_replicate hs
  have hy := length_getD_replicate hp
  rw [← halves_getD, ← halves_getD, parameterBytes]
  generalize salt.getD (List.replicate 16 0) = x at hx ⊢
  generalize pers.getD (List.replicate 16 0) = y at hy ⊢
  match i with
  | 0 => exact pieceWord_lengths _ _
  | 1 | 2 | 3 => exact (by decide : pieceWord (List.replicate 8 0) = 0)
  | 4 => exact congrArg pieceWord (List.take_append_of_le_length (l₁ := x) (l₂ := y) (by omega))
  | 5 | 6 => simp [halves, List.drop_append, hx]
  | 7 =>
    have hx24 : x.drop 24 = [] := List.drop_eq_nil_of_le (by omega)
    have hy8 : (y.drop 8).take 8 = y.drop 8 := List.take_of_length_le (by simp [hy])
    simp [halves, List.drop_append, hx, hx24, hy8]

/-- R180, R182: the chaining state INIT builds, word by word. -/
theorem Regs.baselineH_eq (r : Regs) : r.baselineH =
    #v[iv[0] ^^^ parameterWord r.outlen r.keylen, iv[1], iv[2], iv[3],
      if r.saltp then iv[4] ^^^ r.salt[0] else iv[4], if r.saltp then iv[5] ^^^ r.salt[1] else iv[5],
      if r.persp then iv[6] ^^^ r.pers[0] else iv[6], if r.persp then iv[7] ^^^ r.pers[1] else iv[7]] := by
  unfold Regs.baselineH
  cases r.saltp <;> cases r.persp <;> rfl

/-- XOR with the words of an optional string, which are 0 where there is none. -/
theorem ite_xor_elim (x : Option (List Byte)) (w : Word) {i : Nat} (hi : i < 2) :
    (if x.isSome then w ^^^ (x.elim (Vector.replicate 2 0) halves)[i] else w)
      = w ^^^ (x.elim (Vector.replicate 2 0) halves)[i] := by
  cases x <;> simp

/-- R181, R182: the reference's first chaining state, word by word. -/
theorem referenceH_eq {n k : Nat} {salt pers : Option (List Byte)} (hs : ∀ x, salt = some x → x.length = 16)
    (hp : ∀ x, pers = some x → x.length = 16) : referenceH n k salt pers =
      #v[iv[0] ^^^ parameterWord (BitVec.ofNat 8 n) (BitVec.ofNat 8 k), iv[1], iv[2], iv[3],
        iv[4] ^^^ (salt.elim (Vector.replicate 2 0) halves)[0], iv[5] ^^^ (salt.elim (Vector.replicate 2 0) halves)[1],
        iv[6] ^^^ (pers.elim (Vector.replicate 2 0) halves)[0], iv[7] ^^^ (pers.elim (Vector.replicate 2 0) halves)[1]] := by
  refine Vector.ext fun i hi => ?_
  simp only [referenceH, Vector.getElem_ofFn, pieceWord_parameterBytes hs hp]
  match i, hi with
  | 0, _ | 1, _ | 2, _ | 3, _ | 4, _ | 5, _ | 6, _ | 7, _ => simp

/-- R180, R182: the engine with the parameters loaded starts from the reference's first chaining state. -/
theorem baselineH_loaded {n k : Nat} {salt pers : Option (List Byte)} (hs : ∀ x, salt = some x → x.length = 16)
    (hp : ∀ x, pers = some x → x.length = 16) (key : Vector Byte 64) :
    (Regs.loaded (BitVec.ofNat 8 n) (BitVec.ofNat 8 k) key salt pers).baselineH = referenceH n k salt pers := by
  rw [Regs.baselineH_eq, referenceH_eq hs hp]
  simp only [Regs.loaded_outlen, Regs.loaded_keylen, Regs.loaded_salt, Regs.loaded_saltp, Regs.loaded_pers,
    Regs.loaded_persp, ite_xor_elim]

end Sys2Proof.Machine
end

section
/-! PROOFS. The buffer manager hashes: registers stand for the bytes compressed so far and the bytes still pending, and the
final chaining state after absorbing a string is the reference's over the pending bytes and the string. -/

namespace Sys2Proof.Machine

/-- The counter of the registers is `count` modulo 2^128, and the buffer holds the pending bytes `p`, at most a block. -/
structure Regs.Holds (r : Regs) (count : Nat) (p : List Byte) : Prop where
  off : r.off.toNat = p.length
  length_le : p.length ≤ 128
  buf : ∀ (i : Nat) (h : i < 128), i < p.length → r.buf[i] = p.getD i 0
  t0 : r.t0 = BitVec.ofNat 64 count
  t1 : r.t1 = BitVec.ofNat 64 (count / 2 ^ 64)

/-- R128, R130: CTR_INC adds in the two words. -/
theorem Regs.ctrInc_words {r : Regs} {count : Nat} (h0 : r.t0 = BitVec.ofNat 64 count)
    (h1 : r.t1 = BitVec.ofNat 64 (count / 2 ^ 64)) (a : Byte) :
    (r.ctrInc a).t0 = BitVec.ofNat 64 (count + a.toNat) ∧
      (r.ctrInc a).t1 = BitVec.ofNat 64 ((count + a.toNat) / 2 ^ 64) := by
  have ha := a.isLt
  constructor
  · apply BitVec.eq_of_toNat_eq
    simp [h0]
  · have hw : (a.setWidth 64).toNat = a.toNat := by simp; omega
    have hcarry : (BitVec.ofNat 64 count + a.setWidth 64 < a.setWidth 64) ↔ 2 ^ 64 ≤ count % 2 ^ 64 + a.toNat := by
      rw [BitVec.lt_def, BitVec.toNat_add, hw, BitVec.toNat_ofNat]
      omega
    unfold Regs.ctrInc
    simp only [h0, h1, hcarry]
    split
    · apply BitVec.eq_of_toNat_eq
      simp
      omega
    · congr 1
      omega

theorem Regs.Holds.padded_buf {r : Regs} {count : Nat} {p : List Byte} (h : r.Holds count p) :
    r.padded.buf = padBlock p := by
  refine Vector.ext fun i hi => ?_
  simp only [Regs.padded_buf, zeroTail, padBlock, Vector.getElem_ofFn, h.off]
  split
  · exact h.buf i hi ‹_›
  · rw [List.getD_eq_default _ _ (by omega)]

/-- R160 to R162: the final chaining state compresses the pending bytes as the last block. -/
theorem Regs.Holds.finalH {r : Regs} {count : Nat} {p : List Byte} (h : r.Holds count p) :
    r.finalH = compress r.h (padBlock p) (BitVec.ofNat 64 (count + p.length))
      (BitVec.ofNat 64 ((count + p.length) / 2 ^ 64)) true := by
  obtain ⟨h0, h1⟩ := Regs.ctrInc_words h.t0 h.t1 r.off
  simp only [Regs.finalH, h.padded_buf, Regs.padded_h, Regs.padded_t0, Regs.padded_t1, h0, h1, h.off]

/-- A full buffer is the block of the pending bytes. -/
theorem Regs.Holds.buf_of_full {r : Regs} {count : Nat} {p : List Byte} (h : r.Holds count p) (hp : p.length = 128) :
    r.buf = padBlock p := by
  refine Vector.ext fun i hi => ?_
  simp only [padBlock, Vector.getElem_ofFn]
  exact h.buf i hi (by omega)

theorem Regs.Holds.push {r : Regs} {count : Nat} {p : List Byte} (h : r.Holds count p) (hp : p.length < 128) (b : Byte) :
    (r.push b).Holds count (p ++ [b]) where
  off := by
    rw [Regs.push_off, BitVec.toNat_add, h.off]
    simp
    omega
  length_le := by simpa using hp
  buf i hi hlt := by
    simp only [Regs.push_buf, h.off]
    rw [Vector.getElem_setIfInBounds]
    have hb := h.buf i hi
    grind
  t0 := h.t0
  t1 := h.t1

/-- R141: the flush counts and compresses the full block, and nothing is pending. -/
theorem Regs.Holds.flush {r : Regs} {count : Nat} {p : List Byte} (h : r.Holds count p) (hp : p.length = 128) :
    r.flush.Holds (count + 128) [] ∧
      r.flush.h = compress r.h (padBlock p) (BitVec.ofNat 64 (count + 128))
        (BitVec.ofNat 64 ((count + 128) / 2 ^ 64)) false := by
  obtain ⟨h0, h1⟩ := Regs.ctrInc_words h.t0 h.t1 128
  refine ⟨⟨rfl, by simp, by simp, h0, h1⟩, ?_⟩
  rw [Regs.flush_h, h.buf_of_full hp, h0, h1]
  rfl

/-- R132, R141, R143: absorbing a string and then compressing the last block is hashing the pending bytes and the string. -/
theorem Regs.Holds.finalH_absorbAll (bs : List Byte) {r : Regs} {count fuel : Nat} {p : List Byte}
    (h : r.Holds count p) (hf : (p ++ bs).length < fuel) :
    (r.absorbAll bs).finalH = hashBlocks fuel r.h count (p ++ bs) := by
  induction bs generalizing r count fuel p with
  | nil =>
    obtain ⟨fuel, rfl⟩ := Nat.exists_eq_add_of_lt hf
    rw [Regs.absorbAll_nil, h.finalH, hashBlocks, List.append_nil, if_pos h.length_le]
  | cons b bs ih =>
    rw [Regs.absorbAll_cons]
    by_cases hp : p.length = 128
    · obtain ⟨fuel, rfl⟩ := Nat.exists_eq_add_of_lt hf
      obtain ⟨hflush, hh⟩ := h.flush hp
      have hfull : r.off = 128 := BitVec.eq_of_toNat_eq (h.off.trans hp)
      have hpush := hflush.push (by simp) b
      rw [Regs.absorb_of_full hfull, ih hpush (fuel := (p ++ b :: bs).length + fuel) (by simp; omega), hashBlocks,
        if_neg (by simp; omega), List.take_left' hp, List.drop_left' hp, Regs.push_h, hh]
      rfl
    · have hlt : p.length < 128 := by have := h.length_le; omega
      have hroom : r.off ≠ 128 := fun e => hp (by rw [← h.off, e]; rfl)
      rw [Regs.absorb_of_room hroom, ih (h.push hlt b) (fuel := fuel) (by simpa using hf), Regs.push_h, List.append_assoc]
      rfl

end Sys2Proof.Machine
end

section
/-! PROOFS. Reading the digest: the bytes of a list of words, and the RDDIG lines. -/

namespace Sys2Proof.Machine

theorem getElem?_flatMap_messageBytes (ws : List Word) (k : Nat) :
    (ws.flatMap fun w => messageBytes w 8)[k]? = ws[k / 8]?.map fun w => byteLane w (k % 8) := by
  induction ws generalizing k with
  | nil => rfl
  | cons w ws ih =>
    rw [List.flatMap_cons, List.getElem?_append, messageBytes_length]
    split
    · next h => simp [Nat.div_eq_of_lt h, Nat.mod_eq_of_lt h, h, messageBytes]
    · next h =>
      obtain ⟨j, rfl⟩ := Nat.exists_eq_add_of_le (Nat.not_lt.1 h)
      rw [Nat.add_sub_cancel_left, ih, Nat.add_div_left _ (by decide), Nat.add_mod_left]
      rfl

/-- R160, R163: byte `j` of latched word `i` is the final chaining state's, within the output length. -/
theorem byteLane_digestWords (outlen : Byte) (hf : Vector Word 8) (i : Fin 8) {j : Nat} (hj : j < 8) :
    byteLane (digestWords outlen hf)[i] j = if 8 * i.val + j < outlen.toNat then byteLane hf[i] j else 0 := by
  simp [digestWords, truncWord, byteLane_le64_of_lt _ hj]

/-- The words RDDIGS reads give the bytes of the final chaining state: what the latch truncates lies past the digest. -/
theorem digestOfWords_latched {n : Nat} (hn : n ≤ 64) (hf : Vector Word 8) :
    digestOfWords n ((List.range ((n + 7) / 8)).map fun i => (digestWords (BitVec.ofNat 8 n) hf)[Fin.ofNat 8 i])
      = digestOfWords n hf.toList := by
  refine List.ext_getElem? fun k => ?_
  simp only [digestOfWords, List.getElem?_take, getElem?_flatMap_messageBytes]
  split
  · next hk =>
    have h8 : k / 8 < 8 := by omega
    have hmod : (Fin.ofNat 8 (k / 8)).val = k / 8 := Nat.mod_eq_of_lt h8
    have hword : ((List.range ((n + 7) / 8)).map fun i => (digestWords (BitVec.ofNat 8 n) hf)[Fin.ofNat 8 i])[k / 8]?
        = some (digestWords (BitVec.ofNat 8 n) hf)[Fin.ofNat 8 (k / 8)] := by
      rw [List.getElem?_map, List.getElem?_range (by omega), Option.map_some]
    have hstate : hf.toList[k / 8]? = some hf[Fin.ofNat 8 (k / 8)] := by simp [h8, Nat.mod_eq_of_lt h8]
    rw [hword, hstate, Option.map_some, Option.map_some, byteLane_digestWords _ _ _ (Nat.mod_lt k (by decide)),
      toNat_ofNat_of_le hn, if_pos (by omega)]
  · rfl

/-- RDDIG lines read the latch and leave the registers alone. -/
theorem runCommands_readDigests (is : List Nat) {s : State} (hs : s.regs.inSpec = true) (hd : s.regs.digv = true) :
    ∃ t, runCommands (is.map fun i => .readDigest (Fin.ofNat 8 i)) s
        = some (t, is.map fun i => { status := 0x00, rdata := s.regs.dig[Fin.ofNat 8 i] }) ∧ t.regs = s.regs := by
  induction is generalizing s with
  | nil => exact ⟨s, rfl, rfl⟩
  | cons i is ih =>
    obtain ⟨t, hrun, ht⟩ := ih (s := s.after s.regs .ok s.regs.dig[Fin.ofNat 8 i]) hs hd
    refine ⟨t, ?_, ht⟩
    have h : exec (.readDigest (Fin.ofNat 8 i)) s = _ := execReadDigest_of_valid hs hd
    rw [List.map_cons, runCommands_cons h, hrun]
    rfl

end Sys2Proof.Machine
end

section
/-! PROOFS. A complete command sequence computes BLAKE2b (O56). -/

namespace Sys2Proof.Machine

theorem keyedMessage_append (key msg : List Byte) : keyedMessage key msg = keyedMessage key [] ++ msg := by
  simp [keyedMessage]

theorem Regs.baselineBuf_of_lt (r : Regs) {i : Nat} (h : i < r.keylen.toNat) (h64 : i < 64) :
    r.baselineBuf[i] = r.key[i] := by
  simp [Regs.baselineBuf, h, h64]

theorem Regs.baselineBuf_of_ge (r : Regs) {i : Nat} (hi : i < 128) (h : r.keylen.toNat ≤ i) :
    r.baselineBuf[i] = 0 := by
  simp [Regs.baselineBuf, Nat.not_lt.2 h]

/-- The zeros of the key block are what a byte past the key reads as. -/
theorem getD_keyedMessage_nil (key : List Byte) (i : Nat) : (keyedMessage key []).getD i 0 = key.getD i 0 := by
  unfold keyedMessage
  grind

/-- R146, R180: the first use leaves the zero-padded key block pending, and nothing where there is no key. -/
theorem firstUse_loaded_holds {a : Byte} {key : List Byte} {k : Vector Byte 64} (salt pers : Option (List Byte))
    (hlen : key.length ≤ 64) (hk : ∀ (p : Nat) (h : p < 64), p < key.length → k[p] = key.getD p 0) :
    (Regs.loaded a (BitVec.ofNat 8 key.length) k salt pers).firstUse.Holds 0 (keyedMessage key []) := by
  rw [Regs.firstUse_of_ready rfl]
  have hkl := toNat_ofNat_of_le hlen
  by_cases hnil : key = []
  · subst hnil
    exact ⟨rfl, by decide, fun i _ h => absurd h (by simp [keyedMessage]), rfl, rfl⟩
  · have hpos : 0 < key.length := List.length_pos_iff.2 hnil
    have hblock : (keyedMessage key []).length = 128 := by simp [keyedMessage, hnil]; omega
    refine ⟨?_, hblock.le, fun i hi _ => ?_, rfl, rfl⟩
    · simp [hkl, hpos, hblock]
    · rw [getD_keyedMessage_nil]
      by_cases hlt : i < key.length
      · exact (Regs.baselineBuf_of_lt _ (by rwa [Regs.loaded_keylen, hkl]) (by omega)).trans (hk i (by omega) hlt)
      · rw [List.getD_eq_default _ _ (by omega)]
        exact Regs.baselineBuf_of_ge _ hi (by rw [Regs.loaded_keylen, hkl]; omega)

/-- R1, R132: the final chaining state of the message absorbed after the parameters is the reference's. -/
theorem finalH_session {n : Nat} {key : List Byte} {k : Vector Byte 64} {salt pers : Option (List Byte)}
    (hlen : key.length ≤ 64) (hk : ∀ (p : Nat) (h : p < 64), p < key.length → k[p] = key.getD p 0)
    (hs : ∀ x, salt = some x → x.length = 16) (hp : ∀ x, pers = some x → x.length = 16) (msg : List Byte) :
    ((Regs.loaded (BitVec.ofNat 8 n) (BitVec.ofNat 8 key.length) k salt pers).firstUse.absorbAll msg).finalH
      = hashBlocks ((keyedMessage key msg).length + 1) (referenceH n key.length salt pers) 0 (keyedMessage key msg) := by
  rw [keyedMessage_append, (firstUse_loaded_holds salt pers hlen hk).finalH_absorbAll msg (Nat.lt_succ_self _),
    Regs.firstUse_of_ready rfl, ← baselineH_loaded hs hp k]
  rfl

/-- R160: the UPDATEs of a message and FIN, outside UNCFG, answer OK and leave what FINALIZE leaves. -/
theorem runsOk_message {s : State} (us : List (Fin 16 × Word)) (hs : s.regs.inSpec = true) (hp : s.regs.ph ≠ .uncfg)
    (hk : s.regs.keyFits = true) (hu : ∀ u ∈ us, u.1.val ≤ 8) :
    RunsOk (updateCommands us ++ [.finalize]) s (s.regs.firstUse.absorbAll (updateBytes us)).finalized := by
  obtain ⟨r, hrun, hinSpec, hconfigured, hkeyFits, hr⟩ := runsOk_updates us hs hp hk hu
  obtain ⟨t, rfl, hafter⟩ := hrun.exists_end
  rw [← hr]
  exact hafter (runsOk_single (execFinalize_of_configured hinSpec hkeyFits hconfigured))

/-- R254: the commands of a complete message computation answer OK from every state the spec defines. -/
theorem runsOk_messageCommands {s : State} {n : Nat} {key : List Byte} (salt pers : Option (List Byte))
    (us : List (Fin 16 × Word)) (hs : s.regs.inSpec = true) (h1 : 1 ≤ n) (h64 : n ≤ 64) (hlen : key.length ≤ 64)
    (hu : ∀ u ∈ us, u.1.val ≤ 8) :
    ∃ k : Vector Byte 64, (∀ (p : Nat) (h : p < 64), p < key.length → k[p] = key.getD p 0) ∧
      RunsOk (messageCommands n key salt pers (updateCommands us)) s
        ((Regs.loaded (BitVec.ofNat 8 n) (BitVec.ofNat 8 key.length) k salt pers).firstUse.absorbAll
          (updateBytes us)).finalized := by
  obtain ⟨k, hk, hparams⟩ := runsOk_parameters salt pers hs h1 h64 hlen
  obtain ⟨t, ht, hafter⟩ := hparams.exists_end
  have hfits : (BitVec.ofNat 8 key.length).toNat ≤ 64 := by rwa [toNat_ofNat_of_le hlen]
  have hmessage := runsOk_message us (s := t) (by rw [ht]; rfl) (by rw [ht]; simp)
    (by rw [ht]; exact Regs.loaded_keyFits hfits _ _ _ _) hu
  rw [ht] at hmessage
  refine ⟨k, hk, ?_⟩
  rw [messageCommands, List.append_assoc]
  exact hafter hmessage

theorem Regs.finalized_inSpec {r : Regs} (h : r.ph ≠ .unreachable3) : r.finalized.inSpec = true :=
  (Regs.inSpec_iff _).2 ⟨Regs.init_off_le _, h⟩

/-- Settles O56: the registers after the parameters, the UPDATEs and FIN are known, FIN's final chaining state is the
reference's by the buffer invariant `Regs.Holds`, and RDDIGS reads its bytes. -/
theorem sessionComputesBlake2b : Obligations.SessionComputesBlake2b := by
  intro s n key msg salt pers us hs h1 h64 hlen hsalt hpers hu hmsg
  obtain ⟨k, hk, t, rs, hrun, ht, hok⟩ := runsOk_messageCommands salt pers us hs h1 h64 hlen hu
  rw [hmsg] at ht
  have hhash := finalH_session (n := n) hlen hk hsalt hpers msg
  have hsame := Regs.absorbAll_sameParameters
    (Regs.loaded (BitVec.ofNat 8 n) (BitVec.ofNat 8 key.length) k salt pers).firstUse msg
  have hts : t.regs.inSpec = true := by
    rw [ht]
    exact Regs.finalized_inSpec (by rw [hsame.ph, Regs.firstUse_of_ready rfl]; simp)
  obtain ⟨u, hread, hregs⟩ := runCommands_readDigests (List.range ((n + 7) / 8)) hts (by rw [ht]; rfl)
  refine ⟨t, u, rs, _, hrun, hok, hread, hregs, by simp, ?_⟩
  rw [List.map_map, ht, referenceDigest, ← hhash, ← digestOfWords_latched h64, Regs.finalized_dig, hsame.outlen,
    Regs.firstUse_outlen, Regs.loaded_outlen]
  rfl

end Sys2Proof.Machine
end

section
/-! PROOFS. What a command writes, inverted once over all commands (O37), what a step does to the registers, and in which
states commands and steps stop (O40). -/

namespace Sys2Proof.Machine

/-- R38: what a command that answers leaves in the registers, from `r`: `r` itself, or its rule's writes where the rule's
conditions hold. -/
inductive Regs.Writes (r : Regs) : Instr → Regs → Prop
  | nothing (i : Instr) : r.Writes i r
  | config {a b : Byte} (h1 : 1 ≤ a.toNat) (h64 : a.toNat ≤ 64) (hk : b.toNat ≤ 64) :
    r.Writes (.config a b) (Regs.configured a b)
  | loadKey {k : Fin 8} {d : Word} (hp : r.ph = .ready) : r.Writes (.loadKey k d) (r.withKeyWord k d)
  | setSalt {i : Fin 2} {d : Word} (hp : r.ph = .ready) : r.Writes (.setSalt i d) (r.withSaltWord i d)
  | setPersonal {i : Fin 2} {d : Word} (hp : r.ph = .ready) : r.Writes (.setPersonal i d) (r.withPersWord i d)
  | update {n : Fin 16} {d : Word} (hp : r.ph ≠ .uncfg) (h1 : 1 ≤ n.val) (h8 : n.val ≤ 8) :
    r.Writes (.update n d) (r.firstUse.absorbAll (messageBytes d n))
  | finalize (hp : r.ph ≠ .uncfg) : r.Writes .finalize r.firstUse.finalized

theorem exec_writes {i : Instr} {s t : State} (h : exec i s = .next t) : s.regs.Writes i t.regs := by
  cases i with
  | nop => obtain ⟨-, rfl⟩ := execNop_next h; exact .nothing _
  | config a b =>
    obtain ⟨-, ⟨-, rfl⟩ | ⟨h1, h64, hk, rfl⟩⟩ := execConfig_next h
    · exact .nothing _
    · exact .config h1 h64 hk
  | loadKey k d =>
    obtain ⟨-, ⟨hp, rfl⟩ | ⟨-, rfl⟩⟩ := execLoadKey_next h
    · exact .loadKey hp
    · exact .nothing _
  | setSalt k d =>
    obtain ⟨-, ⟨hp, rfl⟩ | ⟨-, rfl⟩⟩ := execSetSalt_next h
    · exact .setSalt hp
    · exact .nothing _
  | setPersonal k d =>
    obtain ⟨-, ⟨hp, rfl⟩ | ⟨-, rfl⟩⟩ := execSetPersonal_next h
    · exact .setPersonal hp
    · exact .nothing _
  | update n d =>
    obtain ⟨-, ⟨-, rfl⟩ | ⟨-, -, rfl⟩ | ⟨-, -, rfl⟩ | ⟨h1, h8, hp, -, rfl⟩⟩ := execUpdate_next h
    · exact .nothing _
    · exact .nothing _
    · exact .nothing _
    · exact .update hp h1 h8
  | finalize =>
    obtain ⟨-, ⟨-, rfl⟩ | ⟨hp, -, rfl⟩⟩ := execFinalize_next h
    · exact .nothing _
    · exact .finalize hp
  | readDigest k => obtain ⟨-, ⟨-, rfl⟩ | ⟨-, rfl⟩⟩ := execReadDigest_next h <;> exact .nothing _
  | readStatus => obtain ⟨-, rfl⟩ := execReadStatus_next h; exact .nothing _
  | readCounter k => obtain ⟨-, rfl⟩ := execReadCounter_next h; exact .nothing _

/-- Settles O37, by the cases of what a command writes; UPDATE's first use and absorbing leave the parameters and the
latch alone. -/
theorem commandWriteMatrix : Obligations.CommandWriteMatrix := by
  intro s t i h
  have hin : t.inputs = s.inputs := by obtain ⟨-, r, st, w, rfl⟩ := exec_next h; rfl
  refine ⟨hin, ?_⟩
  have hw := exec_writes h
  generalize t.regs = r at hw ⊢
  cases hw with
  | nothing => simp
  | config => simp [Instr.mnemonic]
  | loadKey => simp [Instr.mnemonic]
  | setSalt => simp [Instr.mnemonic]
  | setPersonal => simp [Instr.mnemonic]
  | @update n d =>
    have hsame := s.regs.firstUse.absorbAll_sameParameters (messageBytes d n)
    simp [Instr.mnemonic, hsame.outlen, hsame.keylen, hsame.key, hsame.salt, hsame.saltp, hsame.pers, hsame.persp,
      hsame.dig, hsame.digv]
  | finalize => simp [Instr.mnemonic]

/-- The registers after a step: reset; kept, by a step of the handshake or an illegal word; or a command's. -/
theorem step_next {s t : State} (h : step s = .next t) :
    (s.sample.reset = true ∧ t = { State.reset with inputs := s.inputs.tail }) ∨
    (s.sample.reset = false ∧ s.regs.inSpec = true ∧ t.regs = s.regs) ∨
    (s.sample.reset = false ∧
      ∃ x i, s.port = .executing x ∧ decode x = .ok i ∧ exec i s.advance = .next t) := by
  unfold step at h
  split at h
  · next hr => cases h; exact .inl ⟨hr, rfl⟩
  · next hr =>
    have hr : s.sample.reset = false := by simpa using hr
    refine .inr ?_
    split at h
    · obtain ⟨hs, h⟩ := guarded_next h
      split at h <;> cases h <;> exact .inl ⟨hr, hs, rfl⟩
    · next x hx =>
      unfold runTransfer at h
      split at h
      · next i hi => exact .inr ⟨hr, x, i, hx, hi, h⟩
      · obtain ⟨hs, rfl⟩ := execIllegal_next h; exact .inl ⟨hr, hs, rfl⟩
    · obtain ⟨hs, h⟩ := guarded_next h
      split at h <;> cases h <;> exact .inl ⟨hr, hs, rfl⟩

/-! Stopping -/

/-- R41: every command checks for the states the spec does not define, first. -/
theorem exec_faults {s : State} (hs : s.regs.inSpec = false) (i : Instr) : ∃ f, exec i s = .fault f := by
  cases i <;> exact guarded_faults hs _

/-- Settles O40: commands, illegal words and both steps of the handshake all check the state first. -/
theorem unreachableStatesFault : Obligations.UnreachableStatesFault := by
  refine ⟨fun s i hs => exec_faults hs i, fun s hs hr => ?_⟩
  have hs : s.advance.regs.inSpec = false := hs
  simp only [step, hr, Bool.false_eq_true, if_false]
  split
  · exact guarded_faults hs _
  · unfold runTransfer
    split
    · exact exec_faults hs _
    · exact guarded_faults hs _
  · exact guarded_faults hs _

/-! Answering: `∃ t, k = .next t` passes through the checks and through a choice between two outcomes -/

theorem guarded_answers {s : State} (hs : s.regs.inSpec = true) {k : Host.Outcome State Fault Refusal}
    (hk : ∃ t, k = .next t) : ∃ t, guarded s k = .next t := by
  rwa [guarded_of_inSpec hs]

theorem withKeyLength_answers {s : State} (hs : s.regs.keyFits = true) {k : Host.Outcome State Fault Refusal}
    (hk : ∃ t, k = .next t) : ∃ t, withKeyLength s k = .next t := by
  rwa [withKeyLength_of_keyFits hs]

theorem ite_answers {c : Prop} [Decidable c] {k l : Host.Outcome State Fault Refusal} (hk : ∃ t, k = .next t)
    (hl : ∃ t, l = .next t) : ∃ t, (if c then k else l) = .next t := by
  split
  · exact hk
  · exact hl

theorem complete_answers (s : State) (r : Regs) (w : Word) : ∃ t, complete s r w = .next t := ⟨_, rfl⟩

theorem raise_answers (s : State) (e : Status) : ∃ t, raise s e = .next t := ⟨_, rfl⟩

/-- Where the checks pass, a command either raises an error or completes. -/
theorem exec_answers {s : State} (hs : s.regs.inSpec = true) (hk : s.regs.keyFits = true) (i : Instr) :
    ∃ t, exec i s = .next t := by
  have hraise := raise_answers s
  have hcomplete := complete_answers s
  cases i with
  | nop => exact guarded_answers hs (hcomplete _ _)
  | config a b => exact guarded_answers hs (ite_answers (hraise _) (ite_answers (hraise _) (hcomplete _ _)))
  | loadKey k d => exact guarded_answers hs (ite_answers (hcomplete _ _) (hraise _))
  | setSalt k d => exact guarded_answers hs (ite_answers (hcomplete _ _) (hraise _))
  | setPersonal k d => exact guarded_answers hs (ite_answers (hcomplete _ _) (hraise _))
  | update n d =>
    exact guarded_answers hs (ite_answers (hraise _) (ite_answers (hraise _) (ite_answers (hcomplete _ _)
      (ite_answers (withKeyLength_answers hk (hcomplete _ _)) (hcomplete _ _)))))
  | finalize => exact guarded_answers hs (ite_answers (hraise _) (withKeyLength_answers hk (hcomplete _ _)))
  | readDigest k => exact guarded_answers hs (ite_answers (hcomplete _ _) (hraise _))
  | readStatus => exact guarded_answers hs (hcomplete _ _)
  | readCounter k => exact guarded_answers hs (hcomplete _ _)

end Sys2Proof.Machine
end

section
/-! PROOFS. The invariants of R39 hold after reset (O51), every step keeps them (O52), and with them every step answers
(O53). -/

namespace Sys2Proof.Machine

theorem Regs.Inv.inSpec {r : Regs} (h : r.Inv) : r.inSpec = true := (Regs.inSpec_iff r).2 ⟨h.off_le, h.ph_legal⟩

/-- I3 gives it in UNCFG, I4 elsewhere. -/
theorem Regs.Inv.keyFits {r : Regs} (h : r.Inv) : r.keyFits = true := by
  refine decide_eq_true ?_
  by_cases hp : r.ph = .uncfg
  · obtain ⟨-, hk, -⟩ := h.uncfg_zero hp
    simp [hk]
  · exact (h.lengths hp).2.2

theorem Regs.reset_inv : Regs.reset.Inv where
  off_le := by decide
  ph_legal := by decide
  idle_zero _ := ⟨rfl, rfl, rfl, rfl, rfl⟩
  uncfg_zero _ := ⟨rfl, rfl, rfl, rfl, rfl, rfl, rfl, rfl, rfl⟩
  lengths h := absurd rfl h
  counter_aligned := by decide
  empty_baseline h := by cases h
  digest_truncated h := by cases h
  digest_empty _ := rfl
  digest_only_active _ := rfl

theorem Regs.configured_inv {a b : Byte} (h1 : 1 ≤ a.toNat) (h64 : a.toNat ≤ 64) (hk : b.toNat ≤ 64) :
    (Regs.configured a b).Inv where
  off_le := Regs.reset_inv.off_le
  ph_legal h := by cases h
  idle_zero _ := ⟨rfl, rfl, rfl, rfl, rfl⟩
  uncfg_zero h := by cases h
  lengths _ := ⟨h1, h64, hk⟩
  counter_aligned := Regs.reset_inv.counter_aligned
  empty_baseline h := by cases h
  digest_truncated h := by cases h
  digest_empty _ := rfl
  digest_only_active _ := rfl

/-- Only I3 speaks of the key, the salt and the personalization, and only in UNCFG. -/
theorem Regs.Inv.setParameters {r : Regs} (h : r.Inv) (hp : r.ph ≠ .uncfg) (key : Vector Byte 64)
    (salt pers : Vector Word 2) (saltp persp : Bool) :
    ({ r with key := key, salt := salt, saltp := saltp, pers := pers, persp := persp } : Regs).Inv :=
  { h with uncfg_zero := fun e => absurd e hp }

/-- In ACTIVE the clauses about UNCFG and READY say nothing. -/
theorem Regs.inv_of_active {r : Regs} (hp : r.ph = .active) (off_le : r.off.toNat ≤ 128)
    (lengths : 1 ≤ r.outlen.toNat ∧ r.outlen.toNat ≤ 64 ∧ r.keylen.toNat ≤ 64)
    (aligned : r.t0.toNat % 128 = 0) (baseline : r.off = 0 → r.t0 = 0 ∧ r.t1 = 0 ∧ r.keylen = 0)
    (truncated : r.digv = true → ∀ k : Fin 64, r.outlen.toNat ≤ k.val → digestByte r.dig k = 0)
    (empty : r.digv = false → r.dig = Vector.replicate 8 0) : r.Inv where
  off_le := off_le
  ph_legal := by simp [hp]
  idle_zero := by simp [hp]
  uncfg_zero := by simp [hp]
  lengths _ := lengths
  counter_aligned := aligned
  empty_baseline _ := baseline
  digest_truncated := truncated
  digest_empty := empty
  digest_only_active := by simp [hp]

/-- I6 at the baseline INIT builds: the buffer is empty only where there is no key. -/
theorem Regs.keylen_eq_zero_of_init_off {r : Regs} (h : r.init.off = 0) : r.keylen = 0 := by
  rw [Regs.init_off] at h
  split at h
  · exact absurd h (by decide)
  · exact BitVec.eq_of_toNat_eq (Nat.eq_zero_of_not_pos ‹_›)

theorem Regs.Inv.firstUse {r : Regs} (h : r.Inv) (hp : r.ph ≠ .uncfg) : r.firstUse.Inv := by
  by_cases hr : r.ph = .ready
  · rw [Regs.firstUse_of_ready hr]
    exact Regs.inv_of_active rfl r.init_off_le (h.lengths hp) rfl
      (fun e => ⟨rfl, rfl, Regs.keylen_eq_zero_of_init_off e⟩) h.digest_truncated h.digest_empty
  · rwa [Regs.firstUse_of_not_ready hr]

/-- I5: a flush counts a whole block. -/
theorem Regs.absorb_t0_aligned {r : Regs} (h : r.t0.toNat % 128 = 0) (b : Byte) : (r.absorb b).t0.toNat % 128 = 0 := by
  by_cases hf : r.off = 128
  · rw [Regs.absorb_of_full hf, Regs.push_t0, Regs.flush_t0, Regs.ctrInc_t0, BitVec.toNat_add,
      show ((128 : Byte).setWidth 64).toNat = 128 by decide]
    omega
  · rwa [Regs.absorb_of_room hf]

/-- I6: an absorbed byte is pending, so the buffer is not empty. -/
theorem Regs.Inv.absorb {r : Regs} (h : r.Inv) (ha : r.ph = .active) (b : Byte) : (r.absorb b).Inv := by
  have hsame := r.absorb_sameParameters b
  have hoff := r.absorb_off b h.off_le
  have hpos : 1 ≤ (r.absorb b).off.toNat ∧ (r.absorb b).off.toNat ≤ 128 := by
    have := h.off_le
    rw [hoff]
    split <;> omega
  refine Regs.inv_of_active (hsame.ph.trans ha) hpos.2 ?_ (Regs.absorb_t0_aligned h.counter_aligned b) ?_ ?_ ?_
  · rw [hsame.outlen, hsame.keylen]
    exact h.lengths (by simp [ha])
  · intro e
    simp [e] at hpos
  · rw [hsame.digv, hsame.outlen, hsame.dig]
    exact h.digest_truncated
  · rw [hsame.digv, hsame.dig]
    exact h.digest_empty

theorem Regs.Inv.absorbAll {r : Regs} (h : r.Inv) (ha : r.ph = .active) (bs : List Byte) : (r.absorbAll bs).Inv := by
  induction bs generalizing r with
  | nil => exact h
  | cons b bs ih => exact ih (h.absorb ha b) ((r.absorb_sameParameters b).ph.trans ha)

/-- I7: TRUNC clears the digest bytes from `OUTLEN` on. -/
theorem digestByte_digestWords (outlen : Byte) (hf : Vector Word 8) {k : Fin 64} (h : outlen.toNat ≤ k.val) :
    digestByte (digestWords outlen hf) k = 0 := by
  have hlane := byteLane_digestWords outlen hf ⟨k.val / 8, by omega⟩ (Nat.mod_lt k.val (by decide : 8 > 0))
  rw [if_neg (by simp only; omega)] at hlane
  exact hlane

theorem Regs.Inv.finalized {r : Regs} (h : r.Inv) (ha : r.ph = .active) : r.finalized.Inv :=
  Regs.inv_of_active ha (Regs.init_off_le _) (h.lengths (by simp [ha])) (by simp)
    (fun e => ⟨rfl, rfl, Regs.keylen_eq_zero_of_init_off e⟩)
    (fun _ _ hk => digestByte_digestWords _ _ hk) (fun e => by cases e)

/-- Every write a command can make keeps the invariants. -/
theorem Regs.Inv.of_writes {r r' : Regs} {i : Instr} (h : r.Inv) (hw : r.Writes i r') : r'.Inv := by
  cases hw with
  | nothing => exact h
  | config h1 h64 hk => exact Regs.configured_inv h1 h64 hk
  | loadKey hp => exact h.setParameters (by simp [hp]) _ _ _ _ _
  | setSalt hp => exact h.setParameters (by simp [hp]) _ _ _ _ _
  | setPersonal hp => exact h.setParameters (by simp [hp]) _ _ _ _ _
  | update hp => exact (h.firstUse hp).absorbAll (Regs.firstUse_active h.inSpec hp) _
  | finalize hp => exact (h.firstUse hp).finalized (Regs.firstUse_active h.inSpec hp)

/-- Settles O51: every register is 0 after reset, in UNCFG. -/
theorem resetSatisfiesInvariants : Obligations.ResetSatisfiesInvariants := ⟨Regs.reset_inv, rfl⟩

/-- Settles O52, by what a step does to the registers: reset, nothing, or a command's writes. -/
theorem stepKeepsInvariants : Obligations.StepKeepsInvariants := by
  intro s t hinv h
  obtain ⟨-, rfl⟩ | ⟨-, -, hkept⟩ | ⟨-, x, i, -, -, hexec⟩ := step_next h
  · exact Regs.reset_inv
  · rwa [State.Inv, hkept]
  · have hadv : s.advance.regs.Inv := hinv
    exact hadv.of_writes (exec_writes hexec)

/-- Settles O53: the invariants give what the checks of every command and of the handshake ask for. -/
theorem invariantStatesNeverStop : Obligations.InvariantStatesNeverStop := by
  intro s hinv
  have hs : s.advance.regs.inSpec = true := Regs.Inv.inSpec hinv
  have hk : s.advance.regs.keyFits = true := Regs.Inv.keyFits hinv
  refine ite_answers ⟨_, rfl⟩ ?_
  split
  · refine guarded_answers hs ?_
    split <;> exact ⟨_, rfl⟩
  · unfold runTransfer
    split
    · exact exec_answers hs hk _
    · exact guarded_answers hs (raise_answers _ _)
  · exact guarded_answers hs (ite_answers ⟨_, rfl⟩ ⟨_, rfl⟩)

end Sys2Proof.Machine
end

section
/-! PROOFS. The status word, field by field (O15). -/

namespace Sys2Proof.Machine

theorem getLsbD_of_div_mod {w : Word} {k : Nat} {flag : Bool} (h : w.toNat / 2 ^ k % 2 = flag.toNat) :
    w.getLsbD k = flag := by
  rw [← BitVec.testBit_toNat, Nat.testBit_eq_decide_div_mod_eq, h]
  cases flag <;> rfl

/-- Settles O15: READ_STATUS only answers, and the fields are read off the status word as a number. -/
theorem readStatusReturnsFields : Obligations.ReadStatusReturnsFields := by
  intro s hs
  refine ⟨_, statusWord s.regs, execReadStatus_of_inSpec hs, rfl, ⟨rfl, rfl⟩, ?_⟩
  generalize s.regs = r
  have hword := statusWord_toNat r
  have hph := r.ph.bits.isLt
  have hdigv := r.digv.toNat_le
  have hsaltp := r.saltp.toNat_le
  have hpersp := r.persp.toNat_le
  have houtlen := r.outlen.isLt
  have hkeylen := r.keylen.isLt
  have hoff := r.off.isLt
  have hphase : (statusWord r).toNat % 4 = r.ph.bits.toNat := by omega
  refine ⟨?_, getLsbD_of_div_mod (by omega), getLsbD_of_div_mod (by omega), getLsbD_of_div_mod (by omega), by omega,
    by omega, by omega, by omega, by omega, by omega⟩
  rw [hphase]
  cases r.ph <;> rfl

end Sys2Proof.Machine
end

section
/-! PROOFS. The read commands write nothing and repeat (O38). -/

namespace Sys2Proof.Machine

/-- No command reads the port: a response that is still pending makes no difference to what the next command does. -/
theorem exec_respond (i : Instr) (s : State) (st : Status) (w : Word) : exec i (s.respond st w) = exec i s := by
  cases i <;> rfl

/-- R69: the commands with a write of their own are not among the read commands. -/
theorem Regs.Writes.eq_of_read {r r' : Regs} {i : Instr} (h : r.Writes i r')
    (hi : i.mnemonic ∈ ["READ_DIGEST", "READ_STATUS", "READ_COUNTER"]) : r' = r := by
  cases h with
  | nothing => rfl
  | _ => simp [Instr.mnemonic] at hi

/-- Settles O38: a read command leaves only its response behind, and no command sees that. -/
theorem readCommandsArePure : Obligations.ReadCommandsArePure := by
  intro s t i hi h
  have hregs : t.regs = s.regs := (exec_writes h).eq_of_read hi
  obtain ⟨-, r, st, w, rfl⟩ := exec_next h
  obtain rfl : r = s.regs := hregs
  exact ⟨rfl, (exec_respond i s st w).trans h⟩

end Sys2Proof.Machine
end

section
/-! PROOFS. The decoder and the encoder determine each other (O1, O2), and one word of each opcode (O5). -/

namespace Sys2Proof

open Sys2Proof.Machine

/-! Decoding, forward: an index field below its bound, as the encoder writes it -/

theorem decodeIndexed_ofNat {bound : Nat} (hb : bound ≤ 256) (k : Fin bound) (mk : Fin bound → Instr) :
    decodeIndexed bound (BitVec.ofNat 8 k.val) 0#8 mk = .ok (mk k) := by
  simp [decodeIndexed, Nat.mod_eq_of_lt (by omega : k.val < 256)]

theorem decodeUpdate_ofNat {n : Fin 16} (h : n.val ≤ 8) (d : Word) :
    decodeUpdate (BitVec.ofNat 8 n.val) 0#8 d = .ok (.update n d) := by
  simp [decodeUpdate, Nat.mod_eq_of_lt (by omega : n.val < 256), h]

/-- The four fields determine the word that the encoder writes for them. -/
theorem commandWord_of_fields {c : BitVec 32} {o a b : Byte} (hr : fieldRsv c = 0) (ho : (fieldOpc c).toNat = o.toNat)
    (ha : fieldA c = a) (hb : fieldB c = b) : commandWord o a b = c := by
  rw [← BitVec.eq_of_toNat_eq ho, ← ha, ← hb, commandWord_fields c hr]

theorem decode_encode_cmd {i : Instr} {d : Word} (hi : i.wellFormed = true)
    (hd : (encode i).data = if carriesData i then d else 0) : decode ⟨(encode i).cmd, d⟩ = .ok i := by
  cases i with
  | nop => simp [encode, decode, decodePlain]
  | config a b => simp [encode, decode]
  | loadKey k e =>
    obtain rfl : e = d := hd
    simp [encode, decode, decodeIndexed_ofNat]
  | setSalt k e =>
    obtain rfl : e = d := hd
    simp [encode, decode, decodeIndexed_ofNat]
  | setPersonal k e =>
    obtain rfl : e = d := hd
    simp [encode, decode, decodeIndexed_ofNat]
  | update n e =>
    obtain rfl : e = d := hd
    have h8 : n.val ≤ 8 := of_decide_eq_true hi
    simp [encode, decode, decodeUpdate_ofNat h8]
  | finalize => simp [encode, decode, decodePlain]
  | readDigest k => simp [encode, decode, decodeIndexed_ofNat]
  | readStatus => simp [encode, decode, decodePlain]
  | readCounter k => simp [encode, decode, decodeIndexed_ofNat]

theorem encode_of_decode {t : Transfer} {i : Instr} (h : decode t = .ok i) :
    i.wellFormed = true ∧ (encode i).cmd = t.cmd ∧ (encode i).data = if carriesData i then t.data else 0 := by
  have hidx : fieldA t.cmd = BitVec.ofNat 8 (fieldA t.cmd).toNat := by simp
  obtain ⟨hr, ⟨ho, ha, hb, rfl⟩ | ⟨ho, rfl⟩ | ⟨ho, hlt, hb, rfl⟩ | ⟨ho, hlt, hb, rfl⟩ | ⟨ho, hlt, hb, rfl⟩ |
    ⟨ho, hle, hb, rfl⟩ | ⟨ho, ha, hb, rfl⟩ | ⟨ho, hlt, hb, rfl⟩ | ⟨ho, ha, hb, rfl⟩ | ⟨ho, hlt, hb, rfl⟩⟩ := decode_ok h
  · exact ⟨rfl, commandWord_of_fields hr ho ha hb, rfl⟩
  · exact ⟨rfl, commandWord_of_fields hr ho rfl rfl, rfl⟩
  · exact ⟨rfl, commandWord_of_fields hr ho hidx hb, rfl⟩
  · exact ⟨rfl, commandWord_of_fields hr ho hidx hb, rfl⟩
  · exact ⟨rfl, commandWord_of_fields hr ho hidx hb, rfl⟩
  · exact ⟨decide_eq_true hle, commandWord_of_fields hr ho hidx hb, rfl⟩
  · exact ⟨rfl, commandWord_of_fields hr ho ha hb, rfl⟩
  · exact ⟨rfl, commandWord_of_fields hr ho hidx hb, rfl⟩
  · exact ⟨rfl, commandWord_of_fields hr ho ha hb, rfl⟩
  · exact ⟨rfl, commandWord_of_fields hr ho hidx hb, rfl⟩

/-- R81 to R83, R87: a transfer decodes to `i` exactly when `i` is well-formed and the encoder writes the transfer's
command word for it and, where the command uses it, the transfer's `DATA`. -/
theorem decode_eq_ok_iff {t : Transfer} {i : Instr} : decode t = .ok i ↔
    i.wellFormed = true ∧ (encode i).cmd = t.cmd ∧ (encode i).data = if carriesData i then t.data else 0 := by
  refine ⟨encode_of_decode, fun ⟨hi, hcmd, hdata⟩ => ?_⟩
  have h := decode_encode_cmd hi hdata
  rwa [hcmd] at h

/-- The encoder writes `DATA` only for the commands that use it (R92). -/
theorem encode_data (i : Instr) : (encode i).data = if carriesData i then (encode i).data else 0 := by
  cases i <;> rfl

theorem decode_encode {i : Instr} (hi : i.wellFormed = true) : decode (encode i) = .ok i :=
  decode_eq_ok_iff.2 ⟨hi, rfl, encode_data i⟩

/-- Settles O1: the encoder's transfer for `i` is the transfer that decodes to `i`. -/
theorem decodeEncodeRoundTrip : Obligations.DecodeEncodeRoundTrip := fun _ hi => decode_encode hi

/-- Settles O2, by the fields of the word that each decoded command leaves open. -/
theorem encodeDecodeCanonical : Obligations.EncodeDecodeCanonical := fun _ _ h => encode_of_decode h

/-- Settles O5: each word is the one the encoder writes for the command. -/
theorem writtenOutWordsDecode : Obligations.WrittenOutWordsDecode := by
  intro d
  refine ⟨?_, ?_, ?_, ?_, ?_, ?_, ?_, ?_, ?_, ?_⟩ <;> exact decode_eq_ok_iff.2 ⟨rfl, rfl, rfl⟩

end Sys2Proof
end

section
/-! PROOFS. The rows of R83's table are the decoder's cases (O3), and words that match no row (O10). -/

namespace Sys2Proof

open Sys2Proof.Machine

theorem encodesItsRow (i : Instr) : Laws.EncodesItsRow.Statement i := by
  cases i with
  | nop => exact Laws.EncodesItsRow.nop
  | config a b => exact Laws.EncodesItsRow.config a b
  | loadKey k d => exact Laws.EncodesItsRow.loadKey k d
  | setSalt k d => exact Laws.EncodesItsRow.setSalt k d
  | setPersonal k d => exact Laws.EncodesItsRow.setPersonal k d
  | update n d => exact Laws.EncodesItsRow.update n d
  | finalize => exact Laws.EncodesItsRow.finalize
  | readDigest k => exact Laws.EncodesItsRow.readDigest k
  | readStatus => exact Laws.EncodesItsRow.readStatus
  | readCounter k => exact Laws.EncodesItsRow.readCounter k

/-- What decodes matches the row of its mnemonic. -/
theorem exists_row_of_decode {t : Transfer} {i : Instr} (h : decode t = .ok i) :
    ∃ row ∈ opcodeRows, row.mnemonic = i.mnemonic ∧ row.matchesWord t.cmd = true := by
  obtain ⟨hi, hcmd, -⟩ := encode_of_decode h
  exact hcmd ▸ encodesItsRow i hi

theorem row_eq_of_mnemonic : ∀ row ∈ opcodeRows, ∀ row' ∈ opcodeRows, row.mnemonic = row'.mnemonic → row = row' := by
  decide

/-! A row's mask and pattern, field by field -/

theorem fieldOpc_and (c m : BitVec 32) : fieldOpc (c &&& m) = fieldOpc c &&& fieldOpc m := BitVec.extractLsb'_and
theorem fieldA_and (c m : BitVec 32) : fieldA (c &&& m) = fieldA c &&& fieldA m := BitVec.extractLsb'_and
theorem fieldB_and (c m : BitVec 32) : fieldB (c &&& m) = fieldB c &&& fieldB m := BitVec.extractLsb'_and
theorem fieldRsv_and (c m : BitVec 32) : fieldRsv (c &&& m) = fieldRsv c &&& fieldRsv m := BitVec.extractLsb'_and

theorem opcodeRows_fields : ∀ row ∈ opcodeRows, fieldRsv row.mask = 0xFF ∧ fieldOpc row.mask = 0xFF ∧
    fieldRsv row.pattern = 0 ∧ fieldA row.pattern = 0 ∧ fieldB row.pattern = 0 := by
  decide

theorem and_full (a : Byte) : a &&& 0xFF = a := BitVec.and_allOnes

/-- R83: every row fixes `RSV` to 0 and `OPC` to the row's opcode, and the masked bits of `A` and `B` to 0. -/
theorem matchesWord_fields {row : OpcodeRow} (hrow : row ∈ opcodeRows) {c : BitVec 32} (h : row.matchesWord c = true) :
    fieldRsv c = 0 ∧ fieldOpc c = fieldOpc row.pattern ∧ fieldA c &&& fieldA row.mask = 0 ∧
      fieldB c &&& fieldB row.mask = 0 ∧ (row.mnemonic = "UPDATE" → (c.extractLsb' 8 4).toNat ≤ 8) := by
  simp only [OpcodeRow.matchesWord, Bool.and_eq_true, Bool.or_eq_true, bne_iff_ne, beq_iff_eq, decide_eq_true_eq] at h
  obtain ⟨hbits, hupdate⟩ := h
  obtain ⟨hmr, hmo, hpr, hpa, hpb⟩ := opcodeRows_fields row hrow
  have hr := congrArg fieldRsv hbits
  have ho := congrArg fieldOpc hbits
  have ha := congrArg fieldA hbits
  have hb := congrArg fieldB hbits
  rw [fieldRsv_and, hmr, and_full, hpr] at hr
  rw [fieldOpc_and, hmo, and_full] at ho
  rw [fieldA_and, hpa] at ha
  rw [fieldB_and, hpb] at hb
  exact ⟨hr, ho, ha, hb, fun e => hupdate.resolve_left (absurd e)⟩

/-- A byte whose bits from `k` on are 0 is below `2^k`. -/
theorem toNat_lt_of_masked : ∀ (k : Fin 9) (a : Byte), a &&& BitVec.ofNat 8 (256 - 2 ^ k.val) = 0 →
    a.toNat < 2 ^ k.val := by
  decide

theorem eq_zero_of_masked {a : Byte} (h : a &&& 0xFF = 0) : a = 0 := by rwa [and_full] at h

/-- UPDATE's `nnnn` is all of `A` where the upper half of `A` is 0. -/
theorem fieldA_eq_nibble {c : BitVec 32} (h : (fieldA c).toNat < 16) :
    (c.extractLsb' 8 4).toNat = (fieldA c).toNat := by
  rw [fieldA_toNat] at h ⊢
  rw [BitVec.extractLsb'_toNat, Nat.shiftRight_eq_div_pow]
  omega

/-- R82: the operand in `A`, and `RSV`, `OPC` and `B` fixed, decode to the command that the encoder writes so. -/
theorem decode_of_fields {t : Transfer} {i : Instr} {o a : Byte} (hi : i.wellFormed = true)
    (hcmd : (encode i).cmd = commandWord o a 0) (hdata : (encode i).data = if carriesData i then t.data else 0)
    (hr : fieldRsv t.cmd = 0) (ho : fieldOpc t.cmd = o) (ha : fieldA t.cmd = a) (hb : fieldB t.cmd &&& 0xFF = 0) :
    decode t = .ok i :=
  decode_eq_ok_iff.2 ⟨hi, hcmd.trans (commandWord_of_fields hr (congrArg _ ho) ha (eq_zero_of_masked hb)), hdata⟩

theorem exists_decode_of_row {row : OpcodeRow} (hrow : row ∈ opcodeRows) {t : Transfer}
    (h : row.matchesWord t.cmd = true) : ∃ i, decode t = .ok i ∧ i.mnemonic = row.mnemonic := by
  obtain ⟨hr, ho, ha, hb, hupdate⟩ := matchesWord_fields hrow h
  have hidx : fieldA t.cmd = BitVec.ofNat 8 (fieldA t.cmd).toNat := by simp
  simp only [opcodeRows, List.mem_cons, List.not_mem_nil, or_false] at hrow
  rcases hrow with rfl | rfl | rfl | rfl | rfl | rfl | rfl | rfl | rfl | rfl
  · exact ⟨.nop, decode_of_fields rfl rfl rfl hr ho (eq_zero_of_masked ha) hb, rfl⟩
  · exact ⟨.config _ _, decode_eq_ok_iff.2 ⟨rfl, commandWord_of_fields hr (congrArg _ ho) rfl rfl, rfl⟩, rfl⟩
  · exact ⟨.loadKey ⟨_, toNat_lt_of_masked 3 _ ha⟩ _, decode_of_fields rfl rfl rfl hr ho hidx hb, rfl⟩
  · exact ⟨.setSalt ⟨_, toNat_lt_of_masked 1 _ ha⟩ _, decode_of_fields rfl rfl rfl hr ho hidx hb, rfl⟩
  · exact ⟨.setPersonal ⟨_, toNat_lt_of_masked 1 _ ha⟩ _, decode_of_fields rfl rfl rfl hr ho hidx hb, rfl⟩
  · have h16 : (fieldA t.cmd).toNat < 16 := toNat_lt_of_masked 4 _ ha
    have h8 : (fieldA t.cmd).toNat ≤ 8 := fieldA_eq_nibble h16 ▸ hupdate rfl
    exact ⟨.update ⟨_, h16⟩ _, decode_of_fields (decide_eq_true h8) rfl rfl hr ho hidx hb, rfl⟩
  · exact ⟨.finalize, decode_of_fields rfl rfl rfl hr ho (eq_zero_of_masked ha) hb, rfl⟩
  · exact ⟨.readDigest ⟨_, toNat_lt_of_masked 3 _ ha⟩, decode_of_fields rfl rfl rfl hr ho hidx hb, rfl⟩
  · exact ⟨.readStatus, decode_of_fields rfl rfl rfl hr ho (eq_zero_of_masked ha) hb, rfl⟩
  · exact ⟨.readCounter ⟨_, toNat_lt_of_masked 1 _ ha⟩, decode_of_fields rfl rfl rfl hr ho hidx hb, rfl⟩

/-- Settles O3: a matching row gives the fields of a command of its mnemonic, and the word of a decoded command matches
the row of its mnemonic, which is the only one. -/
theorem decodeMatchesOpcodeTable : Obligations.DecodeMatchesOpcodeTable := by
  refine fun t row hrow => ⟨exists_decode_of_row hrow, fun ⟨i, hi, hm⟩ => ?_⟩
  obtain ⟨row', hrow', hm', hmatch⟩ := exists_row_of_decode hi
  rwa [row_eq_of_mnemonic row' hrow' row hrow (hm'.trans hm)] at hmatch

/-- Settles O10: a word that decoded would match a row, so this one is an illegal word. -/
theorem unmatchedWordIsIllegal : Obligations.UnmatchedWordIsIllegal := by
  intro s t hp hr hs hno
  obtain ⟨e, he⟩ : ∃ e, decode t = .error e := by
    cases hd : decode t with
    | error e => exact ⟨e, rfl⟩
    | ok i =>
      obtain ⟨row, hrow, -, hmatch⟩ := exists_row_of_decode hd
      exact absurd hmatch (by simp [hno row hrow])
  have hs : s.advance.regs.inSpec = true := hs
  simp only [step, hr, hp, runTransfer, he, execIllegal, guarded_of_inSpec hs, raise_next]
  rfl

end Sys2Proof
end

section
/-! PROOFS. Ignored `DATA` (O6), and the assembler (O7). -/

namespace Sys2Proof.Machine

theorem messageBytes_congr {n : Nat} {d d' : Word} (h : ∀ j, j < n → byteLane d j = byteLane d' j) :
    messageBytes d n = messageBytes d' n :=
  List.map_congr_left fun j hj => h j (List.mem_range.1 hj)

/-- Settles O6: the encoder's word and `DATA` of a command that ignores `DATA` say nothing of the transfer's, and UPDATE
reads its data word through its message bytes only. -/
theorem ignoredDataMakesNoDifference : Obligations.IgnoredDataMakesNoDifference := by
  refine ⟨fun c d d' i h hi => ?_, fun n d d' s h => ?_⟩
  · simpa [decode_eq_ok_iff, hi] using h
  · change execUpdate n d s = execUpdate n d' s
    rw [execUpdate, messageBytes_congr h, execUpdate]

theorem assembleIndexed_of_le {max x opc : Nat} (h : x ≤ max) (hmax : max < 256) (hopc : opc < 256) (d : Word) :
    assembleIndexed max x opc d = some ⟨commandWord (BitVec.ofNat 8 opc) (BitVec.ofNat 8 x) 0, d⟩ := by
  have hcmd : BitVec.ofNat 32 (x * 2 ^ 8 + opc) = commandWord (BitVec.ofNat 8 opc) (BitVec.ofNat 8 x) 0 := by
    apply BitVec.eq_of_toNat_eq
    rw [commandWord_toNat]
    simp
    omega
  rw [assembleIndexed, if_pos h, hcmd]

theorem assemble_config (a b : Byte) : assemble (.config a.toNat b.toNat) = some (encode (.config a b)) := by
  have hcmd : BitVec.ofNat 32 (b.toNat * 2 ^ 16 + a.toNat * 2 ^ 8 + 0x01) = commandWord 0x01 a b := by
    apply BitVec.eq_of_toNat_eq
    rw [commandWord_toNat]
    simp
    omega
  rw [assemble, if_pos (by omega), hcmd]
  rfl

theorem assemble_asmOf {i : Instr} (hi : i.wellFormed = true) : assemble (asmOf i) = some (encode i) := by
  cases i with
  | nop => rfl
  | config a b => exact assemble_config a b
  | loadKey k d => exact assembleIndexed_of_le (by omega) (by decide) (by decide) d
  | setSalt k d => exact assembleIndexed_of_le (by omega) (by decide) (by decide) d
  | setPersonal k d => exact assembleIndexed_of_le (by omega) (by decide) (by decide) d
  | update n d => exact assembleIndexed_of_le (of_decide_eq_true hi) (by decide) (by decide) d
  | finalize => rfl
  | readDigest k => exact assembleIndexed_of_le (by omega) (by decide) (by decide) 0
  | readStatus => rfl
  | readCounter k => exact assembleIndexed_of_le (by omega) (by decide) (by decide) 0

/-- Settles O7: a transfer that decodes comes back as the encoder's for its command, any other one as the raw `.cmd`. -/
theorem assemblerAgreesWithEncoder : Obligations.AssemblerAgreesWithEncoder := by
  refine ⟨fun i hi => assemble_asmOf hi, fun t => ?_⟩
  unfold disassemble
  split
  · next i h =>
    obtain ⟨hi, hcmd, -⟩ := encode_of_decode h
    exact ⟨encode i, assemble_asmOf hi, hcmd, (decode_encode hi).trans h.symm⟩
  · exact ⟨t, rfl, rfl, rfl⟩

end Sys2Proof.Machine
end

section
/-! PROOFS. UPDS: the pieces of a byte string and the bytes their UPDATEs carry (O8). -/

namespace Sys2Proof.Machine

/-- Induction along the pieces of `chunks8`. -/
theorem chunks8_induction {P : List Byte → Prop} (nil : P []) (piece : ∀ s, s ≠ [] → P (s.drop 8) → P s)
    (s : List Byte) : P s := by
  by_cases h : s = []
  · exact h ▸ nil
  · exact piece s h (chunks8_induction nil piece (s.drop 8))
termination_by s.length
decreasing_by
  have := List.length_pos_iff.2 h
  simp
  omega

theorem flatten_chunks8 (s : List Byte) : (chunks8 s).flatten = s := by
  induction s using chunks8_induction with
  | nil => rfl
  | piece s hs ih => rw [chunks8_of_ne_nil hs, List.flatten_cons, ih, List.take_append_drop]

theorem length_chunks8 (s : List Byte) : (chunks8 s).length = (s.length + 7) / 8 := by
  induction s using chunks8_induction with
  | nil => rfl
  | piece s hs ih =>
    have hpos := List.length_pos_iff.2 hs
    rw [chunks8_of_ne_nil hs, List.length_cons, ih, List.length_drop]
    omega

theorem length_of_mem_chunks8 (s : List Byte) : ∀ p ∈ chunks8 s, 1 ≤ p.length ∧ p.length ≤ 8 := by
  induction s using chunks8_induction with
  | nil => exact fun _ h => absurd h List.not_mem_nil
  | piece s hs ih =>
    have hpos := List.length_pos_iff.2 hs
    rw [chunks8_of_ne_nil hs]
    exact List.forall_mem_cons.2 ⟨by rw [List.length_take]; omega, ih⟩

/-- A piece of fewer than 8 bytes leaves nothing to cut. -/
theorem length_of_mem_dropLast_chunks8 (s : List Byte) : ∀ p ∈ (chunks8 s).dropLast, p.length = 8 := by
  induction s using chunks8_induction with
  | nil => exact fun _ h => absurd h List.not_mem_nil
  | piece s hs ih =>
    rw [chunks8_of_ne_nil hs]
    by_cases hrest : s.drop 8 = []
    · simp [hrest, chunks8]
    · have h8 : 8 < s.length := by simpa using hrest
      rw [List.dropLast_cons_of_ne_nil (by simp [chunks8_of_ne_nil hrest])]
      exact List.forall_mem_cons.2 ⟨List.length_take_of_le h8.le, ih⟩

theorem messageBytes_pieceWord {p : List Byte} (h : p.length ≤ 8) : messageBytes (pieceWord p) p.length = p := by
  refine List.ext_getElem (messageBytes_length _ _) fun j _ hj => ?_
  rw [messageBytes_getElem, byteLane_pieceWord p (by omega), List.getD_eq_getElem p 0 hj]

/-- R93: the count and the data word of `UPD len(p), LE64(p)`. -/
def updateOperands (p : List Byte) : Fin 16 × Word := (Fin.ofNat 16 p.length, pieceWord p)

theorem expandUpds_eq (s : List Byte) : expandUpds s = updateCommands ((chunks8 s).map updateOperands) := by
  simp [expandUpds, updateCommands, updateOperands, updateOf]

theorem updateOperands_count {p : List Byte} (h : p.length ≤ 8) : (updateOperands p).1.val = p.length :=
  Nat.mod_eq_of_lt (by omega)

theorem updateBytes_updateOperands {ps : List (List Byte)} (h : ∀ p ∈ ps, p.length ≤ 8) :
    updateBytes (ps.map updateOperands) = ps.flatten := by
  rw [updateBytes, List.flatMap_map, ← List.flatMap_id']
  refine List.flatMap_congr fun p hp => ?_
  rw [updateOperands_count (h p hp)]
  exact messageBytes_pieceWord (h p hp)

/-- Settles O8: the UPDATEs carry the pieces of `chunks8`, which are `s` cut into eights. -/
theorem updsCarriesTheString : Obligations.UpdsCarriesTheString := by
  intro s
  have hlen := length_of_mem_chunks8 s
  refine ⟨_, expandUpds_eq s, ?_, ?_, ?_, ?_⟩
  · rw [updateBytes_updateOperands fun p hp => (hlen p hp).2, flatten_chunks8]
  · rw [List.length_map, length_chunks8]
  · refine List.forall_mem_map.2 fun p hp => ?_
    rw [updateOperands_count (hlen p hp).2]
    exact hlen p hp
  · rw [← List.map_dropLast]
    refine List.forall_mem_map.2 fun p hp => ?_
    have h8 := length_of_mem_dropLast_chunks8 s p hp
    rw [updateOperands_count h8.le, h8]

end Sys2Proof.Machine
end

section
/-! PROOFS. What a command answers, over all commands (O36). -/

namespace Sys2Proof.Machine

/-- R83, R91: the value a read command names. -/
def readValue (r : Regs) : Instr → Option Word
  | .readDigest k => some r.dig[k]
  | .readStatus => some (statusWord r)
  | .readCounter k => some (if k = 0 then r.t0 else r.t1)
  | .nop => none
  | .config _ _ => none
  | .loadKey _ _ => none
  | .setSalt _ _ => none
  | .setPersonal _ _ => none
  | .update _ _ => none
  | .finalize => none

theorem readValue_eq_none_iff {r : Regs} {i : Instr} :
    readValue r i = none ↔ i.mnemonic ∉ ["READ_DIGEST", "READ_STATUS", "READ_COUNTER"] := by
  cases i <;> simp [readValue, Instr.mnemonic]

theorem readValue_eq_some {r : Regs} {i : Instr} {w : Word} (h : readValue r i = some w) :
    (∃ k, i = .readDigest k ∧ w = r.dig[k]) ∨ (i = .readStatus ∧ w = statusWord r) ∨
      (i = .readCounter 0 ∧ w = r.t0) ∨ (i = .readCounter 1 ∧ w = r.t1) := by
  cases i with
  | readDigest k => cases h; exact .inl ⟨k, rfl, rfl⟩
  | readStatus => cases h; exact .inr (.inl ⟨rfl, rfl⟩)
  | readCounter k =>
    match k with
    | 0 => cases h; exact .inr (.inr (.inl ⟨rfl, rfl⟩))
    | 1 => cases h; exact .inr (.inr (.inr ⟨rfl, rfl⟩))
  | _ => cases h

/-- R91: a command answers the value it names with OK, and 0 with an error or where it names none. -/
theorem exec_response {i : Instr} {s t : State} (h : exec i s = .next t) :
    ∃ st : Status, t.port = .responding ⟨st.code, if st = .ok then (readValue s.regs i).getD 0 else 0⟩ := by
  cases i with
  | nop => obtain ⟨-, rfl⟩ := execNop_next h; exact ⟨.ok, rfl⟩
  | config a b =>
    obtain ⟨-, ⟨-, rfl⟩ | ⟨-, -, -, rfl⟩⟩ := execConfig_next h
    · exact ⟨.configError, rfl⟩
    · exact ⟨.ok, rfl⟩
  | loadKey k d =>
    obtain ⟨-, ⟨-, rfl⟩ | ⟨-, rfl⟩⟩ := execLoadKey_next h
    · exact ⟨.ok, rfl⟩
    · exact ⟨.sequenceError, rfl⟩
  | setSalt k d =>
    obtain ⟨-, ⟨-, rfl⟩ | ⟨-, rfl⟩⟩ := execSetSalt_next h
    · exact ⟨.ok, rfl⟩
    · exact ⟨.sequenceError, rfl⟩
  | setPersonal k d =>
    obtain ⟨-, ⟨-, rfl⟩ | ⟨-, rfl⟩⟩ := execSetPersonal_next h
    · exact ⟨.ok, rfl⟩
    · exact ⟨.sequenceError, rfl⟩
  | update n d =>
    obtain ⟨-, ⟨-, rfl⟩ | ⟨-, -, rfl⟩ | ⟨-, -, rfl⟩ | ⟨-, -, -, -, rfl⟩⟩ := execUpdate_next h
    · exact ⟨.illegalCommand, rfl⟩
    · exact ⟨.sequenceError, rfl⟩
    · exact ⟨.ok, rfl⟩
    · exact ⟨.ok, rfl⟩
  | finalize =>
    obtain ⟨-, ⟨-, rfl⟩ | ⟨-, -, rfl⟩⟩ := execFinalize_next h
    · exact ⟨.sequenceError, rfl⟩
    · exact ⟨.ok, rfl⟩
  | readDigest k =>
    obtain ⟨-, ⟨-, rfl⟩ | ⟨-, rfl⟩⟩ := execReadDigest_next h
    · exact ⟨.ok, rfl⟩
    · exact ⟨.sequenceError, rfl⟩
  | readStatus => obtain ⟨-, rfl⟩ := execReadStatus_next h; exact ⟨.ok, rfl⟩
  | readCounter k => obtain ⟨-, rfl⟩ := execReadCounter_next h; exact ⟨.ok, rfl⟩

/-- Settles O36: an illegal word answers an error, and a command as `exec_response` says. -/
theorem resultDataZeroExceptReads : Obligations.ResultDataZeroExceptReads := by
  intro s t x r h hr
  unfold runTransfer at h
  split at h
  · next i hi =>
    obtain ⟨st, hport⟩ := exec_response h
    obtain rfl := Port.responding.inj (hr.symm.trans hport)
    simp only [hi, Except.ok.injEq, forall_eq']
    by_cases hok : st = .ok
    · subst hok
      cases hv : readValue s.regs i with
      | none => exact .inl ⟨rfl, fun _ => readValue_eq_none_iff.1 hv⟩
      | some w => exact .inr ⟨rfl, readValue_eq_some hv⟩
    · exact .inl ⟨if_neg hok, fun hcode => absurd (Status.code_injective hcode) hok⟩
  · next e he =>
    obtain ⟨-, rfl⟩ := execIllegal_next h
    cases hr
    exact .inl ⟨rfl, by simp [he]⟩

end Sys2Proof.Machine
end

section
/-! PROOFS. The mixing function G and the round (O46, O47, O48): G is eight lines of one shape, and each fact about G is
first a fact about a line. -/

namespace Sys2Proof.Machine

/-- The shape of a line of R103: slot `p` gets `f` of its own word and the word of the slot `s`. -/
def writeLine (p s : Fin 16) (f : Word → Word → Word) (v : Vector Word 16) : Vector Word 16 := v.set p (f v[p] v[s])

/-- The addition lines of R103; those of slot `c` add no message word, so `x` is 0 there. -/
abbrev addLine (p s : Fin 16) (x : Word) : Vector Word 16 → Vector Word 16 := writeLine p s fun u w => u + w + x

/-- The XOR and rotation lines of R103. -/
abbrev xorLine (p s : Fin 16) (n : Nat) : Vector Word 16 → Vector Word 16 := writeLine p s fun u w => rotr (u ^^^ w) n

/-- One half of R103, with the half's message word and rotation amounts: the two halves have the same shape. -/
def mixHalf (q : Slots) (x : Word) (m n : Nat) (v : Vector Word 16) : Vector Word 16 :=
  xorLine q.b q.c n (addLine q.c q.d 0 (xorLine q.d q.a m (addLine q.a q.b x v)))

theorem mixG_eq_halves (v : Vector Word 16) (q : Slots) (x y : Word) :
    mixG v q x y = mixHalf q y 16 63 (mixHalf q x 32 24 v) := by
  simp only [mixG, mixHalf, writeLine, add_zero]

/-- The slots an application names. -/
abbrev Slots.names (q : Slots) : List (Fin 16) := [q.a, q.b, q.c, q.d]

theorem Slots.names_nodup_iff {q : Slots} :
    q.names.Nodup ↔ (q.a ≠ q.b ∧ q.a ≠ q.c ∧ q.a ≠ q.d) ∧ (q.b ≠ q.c ∧ q.b ≠ q.d) ∧ q.c ≠ q.d := by
  simp

/-- `Vector.ext` with the slot as the model writes it. -/
theorem workingVector_ext {v w : Vector Word 16} (h : ∀ i : Fin 16, v[i] = w[i]) : v = w :=
  Vector.ext fun n hn => h ⟨n, hn⟩

/-! Reading a slot after a line, a half, and G -/

theorem getElem_writeLine_self (p s : Fin 16) (f : Word → Word → Word) (v : Vector Word 16) :
    (writeLine p s f v)[p] = f v[p] v[s] := by
  simp [writeLine]

theorem getElem_writeLine_of_ne {p i : Fin 16} (h : i ≠ p) (s : Fin 16) (f : Word → Word → Word) (v : Vector Word 16) :
    (writeLine p s f v)[i] = v[i] := by
  simp [writeLine, Vector.getElem_set_ne _ _ (Fin.val_ne_of_ne h.symm)]

/-- R103: only the four named slots are touched. -/
theorem getElem_mixHalf_of_notMem {q : Slots} {i : Fin 16} (h : i ∉ q.names) (x : Word) (m n : Nat)
    (v : Vector Word 16) : (mixHalf q x m n v)[i] = v[i] := by
  obtain ⟨ha, hb, hc, hd⟩ : i ≠ q.a ∧ i ≠ q.b ∧ i ≠ q.c ∧ i ≠ q.d := by simpa using h
  simp only [mixHalf, getElem_writeLine_of_ne ha, getElem_writeLine_of_ne hb, getElem_writeLine_of_ne hc,
    getElem_writeLine_of_ne hd]

theorem getElem_mixG_of_notMem {q : Slots} {i : Fin 16} (h : i ∉ q.names) (x y : Word) (v : Vector Word 16) :
    (mixG v q x y)[i] = v[i] := by
  simp only [mixG_eq_halves, getElem_mixHalf_of_notMem h]

theorem getElem_mixHalf {q : Slots} (hq : q.names.Nodup) (x : Word) (m n : Nat) (v : Vector Word 16) {a b c d : Word}
    (ha : a = v[q.a] + v[q.b] + x) (hd : d = rotr (v[q.d] ^^^ a) m) (hc : c = v[q.c] + d)
    (hb : b = rotr (v[q.b] ^^^ c) n) :
    (mixHalf q x m n v)[q.a] = a ∧ (mixHalf q x m n v)[q.b] = b ∧ (mixHalf q x m n v)[q.c] = c ∧
    (mixHalf q x m n v)[q.d] = d := by
  subst ha hd hc hb
  obtain ⟨⟨hab, hac, had⟩, ⟨hbc, hbd⟩, hcd⟩ := Slots.names_nodup_iff.1 hq
  simp only [mixHalf, getElem_writeLine_self, getElem_writeLine_of_ne, add_zero, ne_eq, not_false_eq_true, and_self,
    hab, hac, had, hbc, hbd, hcd, hab.symm, hac.symm, had.symm, hbc.symm, hbd.symm, hcd.symm]

/-- Settles O46: the second half of G starts from what the first one leaves in the named slots. -/
theorem mixTouchesNamedSlots : Obligations.MixTouchesNamedSlots := by
  intro v q x y a1 d1 c1 b1 a2 d2 c2 b2 hq ha1 hd1 hc1 hb1 ha2 hd2 hc2 hb2
  obtain ⟨ha, hb, hc, hd⟩ := getElem_mixHalf hq x 32 24 v ha1 hd1 hc1 hb1
  obtain ⟨ha', hb', hc', hd'⟩ := getElem_mixHalf hq y 16 63 (mixHalf q x 32 24 v) (a := a2) (b := b2) (c := c2) (d := d2)
    (by rwa [ha, hb]) (by rwa [hd]) (by rwa [hc]) (by rwa [hb])
  rw [← mixG_eq_halves] at ha' hb' hc' hd'
  exact ⟨ha', hb', hc', hd', fun _ hp => getElem_mixG_of_notMem hp x y v⟩

/-! Bijections: each line is one, so G is, so the round is -/

/-- R107: a line is invertible when its slots differ and its function is invertible in the target's word. -/
theorem writeLine_bijective {p s : Fin 16} {f : Word → Word → Word} (hps : p ≠ s)
    (hf : ∀ w, Function.Bijective fun u => f u w) : Function.Bijective (writeLine p s f) := by
  constructor
  · intro v w h
    have hne : ∀ i, i ≠ p → v[i] = w[i] := fun i hi => by
      rw [← getElem_writeLine_of_ne hi s f v, h, getElem_writeLine_of_ne hi]
    have hp : f v[p] v[s] = f w[p] v[s] := by
      rw [← getElem_writeLine_self p s f v, h, getElem_writeLine_self, hne s hps.symm]
    refine workingVector_ext fun i => ?_
    by_cases hip : i = p
    · rw [hip]
      exact (hf _).injective hp
    · exact hne i hip
  · intro w
    obtain ⟨u, hu⟩ : ∃ u, f u w[s] = w[p] := (hf w[s]).surjective w[p]
    refine ⟨writeLine p s (fun _ _ => u) w, workingVector_ext fun i => ?_⟩
    by_cases hip : i = p
    · rw [hip, getElem_writeLine_self, getElem_writeLine_self, getElem_writeLine_of_ne hps.symm, hu]
    · rw [getElem_writeLine_of_ne hip, getElem_writeLine_of_ne hip]

/-- Rotating by `n` and then by `64 - n` moves each bit back to its place. -/
theorem rotr_rotr_of_add_eq {n k : Nat} (hn : 0 < n) (hk : 0 < k) (h : n + k = 64) (w : Word) :
    rotr (rotr w n) k = w := by
  refine BitVec.eq_of_getLsbD_eq fun i hi => ?_
  rw [rotrMovesBits _ _ _ hk (by omega) hi, rotrMovesBits _ _ _ hn (by omega) (Nat.mod_lt _ (by decide))]
  congr 1
  omega

theorem rotr_bijective {n : Nat} (hn : 0 < n) (hn64 : n < 64) : Function.Bijective fun w => rotr w n :=
  Function.bijective_iff_has_inverse.2 ⟨fun w => rotr w (64 - n),
    fun w => rotr_rotr_of_add_eq (k := 64 - n) hn (by omega) (by omega) w,
    fun w => rotr_rotr_of_add_eq (k := n) (by omega) hn (by omega) w⟩

theorem addLine_bijective {p s : Fin 16} (hps : p ≠ s) (x : Word) : Function.Bijective (addLine p s x) :=
  writeLine_bijective hps fun w => by
    simpa only [add_assoc] using AddGroup.addRight_bijective (w + x)

theorem xorLine_bijective {p s : Fin 16} (hps : p ≠ s) {n : Nat} (hn : 0 < n) (hn64 : n < 64) :
    Function.Bijective (xorLine p s n) :=
  writeLine_bijective hps fun w =>
    have hxor : Function.Involutive fun u : Word => u ^^^ w := fun u => by simp
    (rotr_bijective hn hn64).comp hxor.bijective

theorem mixHalf_bijective {q : Slots} (hq : q.names.Nodup) (x : Word) {m n : Nat} (hm : 0 < m) (hm64 : m < 64)
    (hn : 0 < n) (hn64 : n < 64) : Function.Bijective (mixHalf q x m n) := by
  obtain ⟨⟨hab, -, had⟩, ⟨hbc, -⟩, hcd⟩ := Slots.names_nodup_iff.1 hq
  exact (xorLine_bijective hbc hn hn64).comp <| (addLine_bijective hcd 0).comp <|
    (xorLine_bijective had.symm hm hm64).comp (addLine_bijective hab x)

theorem mixG_bijective {q : Slots} (hq : q.names.Nodup) (x y : Word) : Function.Bijective fun v => mixG v q x y := by
  simp only [mixG_eq_halves]
  exact (mixHalf_bijective hq y (m := 16) (n := 63) (by decide) (by decide) (by decide) (by decide)).comp
    (mixHalf_bijective hq x (m := 32) (n := 24) (by decide) (by decide) (by decide) (by decide))

/-- R104: the four slots of an application are distinct. -/
theorem slots_names_nodup : ∀ i : Fin 8, slots[i].names.Nodup := by decide

theorem foldl_bijective {α β : Type} {f : α → β → α} (hf : ∀ b, Function.Bijective fun a => f a b) :
    ∀ l : List β, Function.Bijective fun a => l.foldl f a
  | [] => Function.bijective_id
  | b :: l => (foldl_bijective hf l).comp (hf b)

/-- Settles O47: the lines of G, and the eight applications of the round, are bijections composed. -/
theorem mixingIsBijective : Obligations.MixingIsBijective :=
  ⟨fun _ x y hq => mixG_bijective hq x y,
    fun _ _ => foldl_bijective (fun i => mixG_bijective (slots_names_nodup i) _ _) _⟩

/-! Commuting: what G writes depends on its own slots alone -/

/-- The two working vectors hold the same words in the slots of the list. -/
def AgreeOn (l : List (Fin 16)) (v w : Vector Word 16) : Prop := ∀ i ∈ l, v[i] = w[i]

theorem AgreeOn.writeLine {l : List (Fin 16)} {v w : Vector Word 16} (h : AgreeOn l v w) {p s : Fin 16} (hp : p ∈ l)
    (hs : s ∈ l) (f : Word → Word → Word) : AgreeOn l (writeLine p s f v) (writeLine p s f w) := by
  intro i hi
  by_cases hip : i = p
  · rw [hip, getElem_writeLine_self, getElem_writeLine_self, h p hp, h s hs]
  · rw [getElem_writeLine_of_ne hip, getElem_writeLine_of_ne hip, h i hi]

theorem AgreeOn.mixHalf {q : Slots} {v w : Vector Word 16} (h : AgreeOn q.names v w) (x : Word) (m n : Nat) :
    AgreeOn q.names (mixHalf q x m n v) (mixHalf q x m n w) :=
  have ha : q.a ∈ q.names := by simp
  have hb : q.b ∈ q.names := by simp
  have hc : q.c ∈ q.names := by simp
  have hd : q.d ∈ q.names := by simp
  (((h.writeLine ha hb _).writeLine hd ha _).writeLine hc hd _).writeLine hb hc _

theorem AgreeOn.mixG {q : Slots} {v w : Vector Word 16} (h : AgreeOn q.names v w) (x y : Word) :
    AgreeOn q.names (mixG v q x y) (mixG w q x y) := by
  rw [mixG_eq_halves, mixG_eq_halves]
  exact (h.mixHalf x 32 24).mixHalf y 16 63

/-- R106: two applications of G on disjoint slots commute. -/
theorem mixG_comm {q q' : Slots} (hqq : q.names.Disjoint q'.names) (v : Vector Word 16) (x y x' y' : Word) :
    mixG (mixG v q x y) q' x' y' = mixG (mixG v q' x' y') q x y := by
  have hq : AgreeOn q.names v (mixG v q' x' y') := fun i hi => (getElem_mixG_of_notMem (hqq hi) x' y' v).symm
  have hq' : AgreeOn q'.names (mixG v q x y) v := fun i hi => getElem_mixG_of_notMem (hqq.symm hi) x y v
  refine workingVector_ext fun i => ?_
  by_cases hi : i ∈ q.names
  · rw [getElem_mixG_of_notMem (hqq hi), hq.mixG x y i hi]
  · rw [getElem_mixG_of_notMem hi]
    by_cases hi' : i ∈ q'.names
    · exact hq'.mixG x' y' i hi'
    · rw [getElem_mixG_of_notMem hi', getElem_mixG_of_notMem hi, getElem_mixG_of_notMem hi']

/-- R104: the slots of two applications of one kind are disjoint. -/
theorem slots_names_disjoint : ∀ i j : Fin 8, (i.val < 4 ↔ j.val < 4) → i ≠ j →
    ∀ p ∈ slots[i].names, p ∉ slots[j].names := by
  decide

/-- Settles O48: two different applications of one kind name disjoint slots. -/
theorem sameKindMixingCommutes : Obligations.SameKindMixingCommutes := by
  intro m v r i j hij
  by_cases h : i = j
  · rw [h]
  · exact mixG_comm (slots_names_disjoint i j hij h) ..

end Sys2Proof.Machine
end

section
/-! PROOFS. CTR_INC on the counter as one number (O49; spec/41_compression.md R128, R130). -/

namespace Sys2Proof.Machine

/-- R128: T0 is the low word of the counter. -/
theorem Regs.t0_eq_ofNat_count (r : Regs) : r.t0 = BitVec.ofNat 64 r.count := by
  apply BitVec.eq_of_toNat_eq
  rw [BitVec.toNat_ofNat, Regs.count, Nat.mul_add_mod_self_right, Nat.mod_eq_of_lt r.t0.isLt]

/-- R128: T1 is the high word of the counter. -/
theorem Regs.t1_eq_ofNat_count (r : Regs) : r.t1 = BitVec.ofNat 64 (r.count / 2 ^ 64) := by
  have hdiv : r.count / 2 ^ 64 = r.t1.toNat := by
    have := r.t0.isLt
    unfold Regs.count
    omega
  rw [hdiv, BitVec.ofNat_toNat, BitVec.setWidth_eq]

/-- Registers whose two counter words are those of `n` count `n` modulo 2^128. -/
theorem Regs.count_of_words {r : Regs} {n : Nat} (h0 : r.t0 = BitVec.ofNat 64 n)
    (h1 : r.t1 = BitVec.ofNat 64 (n / 2 ^ 64)) : r.count = n % 2 ^ 128 := by
  rw [Regs.count, h0, h1, BitVec.toNat_ofNat, BitVec.toNat_ofNat, show (2 : Nat) ^ 128 = 2 ^ 64 * 2 ^ 64 from rfl,
    Nat.mod_mul, Nat.mul_comm, Nat.add_comm]

/-- R128, R130: CTR_INC adds the amount to the counter, which wraps at 2^128. -/
theorem Regs.ctrInc_count (r : Regs) (amount : Byte) :
    (r.ctrInc amount).count = (r.count + amount.toNat) % 2 ^ 128 := by
  obtain ⟨h0, h1⟩ := Regs.ctrInc_words r.t0_eq_ofNat_count r.t1_eq_ofNat_count amount
  exact Regs.count_of_words h0 h1

/-- Settles O49: the two words after CTR_INC are those of the sum, and CTR_INC is an update of T0 and T1 alone. -/
theorem counterAddsModulo : Obligations.CounterAddsModulo :=
  fun r amount _ => ⟨r.ctrInc_count amount, rfl⟩

end Sys2Proof.Machine
end

section
/-! PROOFS. Chunking (O54): what a run of UPDATEs leaves in the registers is a function of the bytes it carries. -/

namespace Sys2Proof.Machine

/-- What UPDATEs of at least one byte each that carry `bs` leave in the registers `r`; `none` where they stop. -/
def Regs.afterUpdates (r : Regs) (bs : List Byte) : Option Regs :=
  if bs = [] then some r
  else if r.inSpec = false ∨ r.ph = .ready ∧ r.keyFits = false then none
  else if r.ph = .uncfg then some r
  else some (r.firstUse.absorbAll bs)

/-- An UPDATE with bytes that answers: it absorbed them unless it met UNCFG. -/
theorem exec_update_next_of_bytes {n : Fin 16} {d : Word} {s t : State} (h1 : 1 ≤ n.val) (h8 : n.val ≤ 8)
    (h : exec (.update n d) s = .next t) :
    s.regs.inSpec = true ∧ (s.regs.ph = .ready → s.regs.keyFits = true) ∧
      (s.regs.ph ≠ .uncfg → t.regs = s.regs.firstUse.absorbAll (messageBytes d n)) := by
  obtain ⟨hs, hcases⟩ := execUpdate_next h
  obtain ⟨h9, -⟩ | ⟨-, hp, -⟩ | ⟨h0, -⟩ | ⟨-, -, -, hk, rfl⟩ := hcases
  · omega
  · exact ⟨hs, by simp [hp], fun hne => absurd hp hne⟩
  · omega
  · exact ⟨hs, hk, fun _ => rfl⟩

/-- R41 and log 1: the states in which an UPDATE with bytes stops. -/
theorem exec_update_ne_next {n : Fin 16} {d : Word} {s : State} (h1 : 1 ≤ n.val) (h8 : n.val ≤ 8)
    (hstop : s.regs.inSpec = false ∨ s.regs.ph = .ready ∧ s.regs.keyFits = false) (t : State) :
    exec (.update n d) s ≠ .next t := by
  intro h
  obtain ⟨hs, hk, -⟩ := exec_update_next_of_bytes h1 h8 h
  obtain hs' | ⟨hready, hk'⟩ := hstop
  · simp [hs] at hs'
  · simp [hk hready] at hk'

theorem runCommands_cons_of_stop {i : Instr} {s : State} (h : ∀ t, exec i s ≠ .next t) (is : List Instr) :
    runCommands (i :: is) s = none := by
  unfold runCommands
  split
  · next t ht => exact absurd ht (h t)
  · rfl
  · rfl

/-- R140: an UPDATE in UNCFG is out of sequence and writes nothing. -/
theorem execUpdate_of_uncfg {n : Fin 16} {d : Word} {s : State} (hs : s.regs.inSpec = true) (hp : s.regs.ph = .uncfg)
    (h8 : n.val ≤ 8) : execUpdate n d s = .next (s.after s.regs .sequenceError 0) := by
  unfold execUpdate
  rw [guarded_of_inSpec hs, if_neg (by omega), if_pos hp]
  rfl

theorem runCommands_updates_of_uncfg (us : List (Fin 16 × Word)) {s : State} (hs : s.regs.inSpec = true)
    (hp : s.regs.ph = .uncfg) (hu : ∀ u ∈ us, u.1.val ≤ 8) :
    (runCommands (updateCommands us) s).map (fun p => p.1.regs) = some s.regs := by
  induction us generalizing s with
  | nil => rfl
  | cons u us ih =>
    have hrest := ih (s := s.after s.regs .sequenceError 0) hs hp fun v hv => hu v (List.mem_cons_of_mem _ hv)
    have hfirst : exec (.update u.1 u.2) s = _ := execUpdate_of_uncfg hs hp (hu u List.mem_cons_self)
    rw [updateCommands, List.map_cons, runCommands_cons hfirst, Option.map_map]
    exact hrest

theorem messageBytes_ne_nil {d : Word} {n : Nat} (h : 1 ≤ n) : messageBytes d n ≠ [] :=
  List.ne_nil_of_length_pos (by rwa [messageBytes_length])

theorem updateBytes_cons_ne_nil {u : Fin 16 × Word} (h : 1 ≤ u.1.val) (us : List (Fin 16 × Word)) :
    updateBytes (u :: us) ≠ [] := by
  rw [updateBytes, List.flatMap_cons]
  exact List.append_ne_nil_of_left_ne_nil (messageBytes_ne_nil h) _

/-- R145: the registers after a run of UPDATEs depend on the bytes alone. -/
theorem runCommands_updates_regs (us : List (Fin 16 × Word)) (s : State)
    (hu : ∀ u ∈ us, 1 ≤ u.1.val ∧ u.1.val ≤ 8) :
    (runCommands (updateCommands us) s).map (fun p => p.1.regs) = s.regs.afterUpdates (updateBytes us) := by
  cases us with
  | nil => rfl
  | cons u us =>
    obtain ⟨h1, h8⟩ := hu u List.mem_cons_self
    rw [Regs.afterUpdates, if_neg (updateBytes_cons_ne_nil h1 us)]
    split
    · next hstop =>
      rw [updateCommands, List.map_cons, runCommands_cons_of_stop (exec_update_ne_next h1 h8 hstop), Option.map_none]
    · next hgo =>
      have hs : s.regs.inSpec = true := by
        simpa using fun e => hgo (.inl e)
      split
      · next hp => exact runCommands_updates_of_uncfg _ hs hp fun v hv => (hu v hv).2
      · next hp =>
        have hk : s.regs.ph = .ready → s.regs.keyFits = true := fun hready => by
          simpa using fun e => hgo (.inr ⟨hready, e⟩)
        obtain ⟨t, rs, hrun, ht⟩ := runCommands_updates (u :: us) s hs hp hk hu
        rw [hrun, Option.map_some, ht, if_neg (List.cons_ne_nil u us)]

/-- Settles O54: both runs leave what their common byte string says. -/
theorem chunkingInvariance : Obligations.ChunkingInvariance := by
  intro s us vs hu hv hbytes
  rw [runCommands_updates_regs us s hu, runCommands_updates_regs vs s hv, hbytes]

end Sys2Proof.Machine
end

section
/-! PROOFS. What UPDATE leaves in the registers: nothing without bytes (O25), its bytes in the buffer where they fit
(O26), and the block completed, compressed and begun again where they do not (O27). -/

namespace Sys2Proof.Machine

/-- Settles O25: the forward rule of UPDATE with a count of 0. -/
theorem emptyUpdateIsNoOp : Obligations.EmptyUpdateIsNoOp :=
  fun _ _ hs hp => execUpdate_of_zero hs hp rfl

/-- `r'` is `r` with the bytes `bs` stored in the buffer from `OFF` on. -/
structure Regs.Stores (r : Regs) (bs : List Byte) (r' : Regs) : Prop where
  off : r'.off.toNat = r.off.toNat + bs.length
  buf : ∀ p : Fin 128, r'.buf[p] =
    if r.off.toNat ≤ p.val ∧ p.val < r.off.toNat + bs.length then bs.getD (p.val - r.off.toNat) 0 else r.buf[p]
  frame : { r' with buf := r.buf, off := r.off } = r

theorem Regs.Stores.nil (r : Regs) : r.Stores [] r where
  off := rfl
  buf p := by rw [if_neg (by simp)]
  frame := rfl

/-- R141: a byte pushed, then the rest stored behind it. -/
theorem Regs.Stores.cons {r r' : Regs} {b : Byte} {bs : List Byte} (hroom : r.off.toNat < 128)
    (h : (r.push b).Stores bs r') : r.Stores (b :: bs) r' := by
  have hoff : (r.push b).off.toNat = r.off.toNat + 1 := by
    rw [Regs.push_off, BitVec.toNat_add]
    exact Nat.mod_eq_of_lt (by simp; omega)
  refine ⟨?_, fun p => ?_, congrArg (fun x : Regs => { x with buf := r.buf, off := r.off }) h.frame⟩
  · rw [h.off, hoff, List.length_cons]
    omega
  · rw [h.buf p, hoff, List.length_cons, Regs.push_buf, Fin.getElem_fin, Vector.getElem_setIfInBounds]
    obtain hlt | heq | hgt := Nat.lt_trichotomy p.val r.off.toNat
    · rw [if_neg (by omega), if_neg (by omega), if_neg (by omega)]
      rfl
    · simp [heq]
    · have hidx : p.val - r.off.toNat = p.val - (r.off.toNat + 1) + 1 := by omega
      rw [hidx, List.getD_cons_succ, if_neg (c := r.off.toNat = p.val) (by omega)]
      exact if_congr (by omega) rfl rfl

theorem Regs.Stores.count {r r' : Regs} {bs : List Byte} (h : r.Stores bs r') : r'.count = r.count :=
  (congrArg Regs.count h.frame :)

theorem Regs.Stores.h {r r' : Regs} {bs : List Byte} (h : r.Stores bs r') : r'.h = r.h :=
  (congrArg Regs.h h.frame :)

theorem Regs.Stores.t0 {r r' : Regs} {bs : List Byte} (h : r.Stores bs r') : r'.t0 = r.t0 :=
  (congrArg Regs.t0 h.frame :)

theorem Regs.Stores.t1 {r r' : Regs} {bs : List Byte} (h : r.Stores bs r') : r'.t1 = r.t1 :=
  (congrArg Regs.t1 h.frame :)

/-- R141: bytes the buffer has room for are stored one behind the other. -/
theorem Regs.absorbAll_stores (bs : List Byte) {r : Regs} (h : r.off.toNat + bs.length ≤ 128) :
    r.Stores bs (r.absorbAll bs) := by
  induction bs generalizing r with
  | nil => exact .nil r
  | cons b bs ih =>
    rw [List.length_cons] at h
    have hroom : r.off.toNat < 128 := by omega
    have hoff : (r.absorb b).off.toNat = r.off.toNat + 1 := by
      rw [Regs.absorb_off r b (by omega), if_neg (by omega)]
    have hne : r.off ≠ 128 := fun e => by simp [e] at hroom
    have htail := ih (r := r.absorb b) (by omega)
    rw [Regs.absorbAll_cons]
    rw [Regs.absorb_of_room hne] at htail ⊢
    exact htail.cons hroom

/-- R141: with the buffer full, the first byte flushes it, and the bytes go into the empty buffer. -/
theorem Regs.absorbAll_of_full {r : Regs} (h : r.off = 128) {bs : List Byte} (hbs : bs ≠ []) :
    r.absorbAll bs = r.flush.absorbAll bs := by
  obtain ⟨b, bs, rfl⟩ := List.exists_cons_of_ne_nil hbs
  rw [Regs.absorbAll_cons, Regs.absorbAll_cons, Regs.absorb_of_full h,
    Regs.absorb_of_room (r := r.flush) (by simp)]

/-- R146, R148: bytes that overflow the buffer fill it, and the rest goes into the buffer emptied by the flush. -/
theorem Regs.absorbAll_overflows {r : Regs} {bs cs : List Byte} (hfill : r.off.toNat + bs.length = 128) (hne : cs ≠ [])
    (hlen : cs.length ≤ 128) :
    ∃ full : Regs, r.Stores bs full ∧ full.flush.Stores cs (r.absorbAll (bs ++ cs)) := by
  have hfull := Regs.absorbAll_stores bs hfill.le
  have hoff : (r.absorbAll bs).off = 128 := BitVec.eq_of_toNat_eq (hfull.off.trans hfill)
  refine ⟨r.absorbAll bs, hfull, ?_⟩
  rw [Regs.absorbAll_append, Regs.absorbAll_of_full hoff hne]
  exact Regs.absorbAll_stores cs (by simpa using hlen)

theorem messageBytes_getD (d : Word) {n j : Nat} (h : j < n) : (messageBytes d n).getD j 0 = byteLane d j := by
  rw [List.getD_eq_getElem _ _ (by simpa using h), messageBytes_getElem]

/-- R85: the lanes of a data word, cut in two. -/
theorem messageBytes_add (d : Word) (k m : Nat) :
    messageBytes d (k + m) = messageBytes d k ++ (List.range m).map fun j => byteLane d (k + j) := by
  simp [messageBytes, List.range_add]

/-- Settles O26: the message bytes are stored behind the ones the first use leaves in the buffer. -/
theorem updateFillsBuffer : Obligations.UpdateFillsBuffer := by
  intro s n d r hs hp hk h1 h8 hr hfits
  have hstores := Regs.absorbAll_stores (messageBytes d n) (r := r) (by simpa using hfits)
  refine ⟨_, execUpdate_of_bytes hs hp hk h1 h8, ⟨rfl, rfl⟩, ?_⟩
  rw [State.respond_regs, Regs.firstUse, ← hr]
  refine ⟨hstores.frame, by simpa using hstores.off, fun p => ?_⟩
  rw [hstores.buf p, messageBytes_length]
  split
  · exact messageBytes_getD d (by omega)
  · rfl

/-- R128, R141: the flush counts one block. -/
theorem Regs.flush_count (r : Regs) : r.flush.count = (r.count + 128) % 2 ^ 128 := r.ctrInc_count 128

/-- R148: storing, flushing and storing again writes `H`, the counter, `BUF` and `OFF` alone. -/
theorem Regs.Stores.frame_of_flush {r full r' : Regs} {bs cs : List Byte} (hbefore : r.Stores bs full)
    (hafter : full.flush.Stores cs r') :
    { r' with h := r.h, t0 := r.t0, t1 := r.t1, buf := r.buf, off := r.off } = r :=
  (congrArg (fun x : Regs => { x with h := r.h, t0 := r.t0, t1 := r.t1, buf := r.buf, off := r.off })
    hafter.frame).trans
    (congrArg (fun x : Regs => { x with h := r.h, t0 := r.t0, t1 := r.t1 }) hbefore.frame)

/-- Settles O27: the first lanes complete the block, the flush counts and compresses it, and the other lanes follow. -/
theorem updateCompressesFullBlock : Obligations.UpdateCompressesFullBlock := by
  intro s n d r block hs hp hk h8 hr hover hblock
  have hr : s.regs.firstUse = r := hr.symm
  have hle : r.off.toNat ≤ 128 := hr ▸ Regs.firstUse_off_le ((Regs.inSpec_iff _).1 hs).1
  obtain ⟨k, hfill⟩ := Nat.exists_eq_add_of_le hle
  obtain ⟨m, hm⟩ := Nat.exists_eq_add_of_le (show k ≤ n.val by omega)
  obtain ⟨full, hbefore, hafter⟩ := Regs.absorbAll_overflows (r := r) (bs := messageBytes d k)
    (cs := (List.range m).map fun j => byteLane d (k + j)) (by simp [hfill]) (by simp; omega) (by simp; omega)
  rw [← messageBytes_add, ← hm] at hafter
  have hfull : full.buf = block := by
    refine Vector.ext fun i hi => ?_
    have hb := hbefore.buf ⟨i, hi⟩
    have hc := hblock ⟨i, hi⟩
    simp only [Fin.getElem_fin, messageBytes_length] at hb hc
    rw [hb, hc]
    refine ite_congr (by simp; omega) (fun hge => messageBytes_getD d (by omega)) fun _ => rfl
  refine ⟨_, execUpdate_of_bytes hs hp hk (by omega) h8, ⟨rfl, rfl⟩, ?_⟩
  rw [State.respond_regs, hr]
  refine ⟨?_, ?_, ?_, fun p => ?_, hbefore.frame_of_flush hafter⟩
  · rw [hafter.count, Regs.flush_count, hbefore.count]
  · rw [hafter.h, hafter.t0, hafter.t1, Regs.flush_h, hfull, hbefore.h]
    rfl
  · rw [hafter.off, Regs.flush_off, List.length_map, List.length_range]
    simp
    omega
  · have hrest : r.off.toNat + n.val - 128 = m := by omega
    have hk' : 128 - r.off.toNat = k := by omega
    rw [hafter.buf p, Regs.flush_buf, Regs.flush_off, hfull, hrest, hk']
    refine ite_congr (by simp) (fun hlt => ?_) fun _ => rfl
    rw [List.getD_eq_getElem _ _ (by simpa using hlt)]
    simp

end Sys2Proof.Machine
end

section
/-! PROOFS. An UPDATE counted in bytes: what is left in the buffer (O28), the counter beside it (O29), and the blocks
compressed (O50). -/

namespace Sys2Proof.Machine

/-- R263: each byte either stays in the buffer or left it in one of the blocks flushed. -/
theorem Regs.absorbAll_off_add_flushes (bs : List Byte) {r : Regs} (h : r.off.toNat ≤ 128) :
    (r.absorbAll bs).off.toNat + 128 * flushCount r bs = r.off.toNat + bs.length := by
  induction bs generalizing r with
  | nil => rfl
  | cons b bs ih =>
    have hoff := r.absorb_off b h
    have hfull : r.off = 128 ↔ r.off.toNat = 128 := BitVec.toNat_inj.symm
    simp only [Regs.absorbAll_cons, flushCount, List.length_cons, hfull]
    split at hoff
    · have htail := ih (r := r.absorb b) (by omega)
      rw [if_pos ‹_›]
      omega
    · have htail := ih (r := r.absorb b) (by omega)
      rw [if_neg ‹_›]
      omega

/-- R143: an absorbed byte is pending. -/
theorem Regs.absorbAll_off_pos {bs : List Byte} (hbs : bs ≠ []) {r : Regs} (h : r.off.toNat ≤ 128) :
    1 ≤ (r.absorbAll bs).off.toNat := by
  rw [← List.dropLast_append_getLast hbs, Regs.absorbAll_append, Regs.absorbAll_cons, Regs.absorbAll_nil,
    Regs.absorb_off _ _ (Regs.absorbAll_off_le _ r h)]
  split <;> omega

/-- R130, R141: the counter counts the blocks flushed. -/
theorem Regs.absorbAll_count (bs : List Byte) (r : Regs) :
    (r.absorbAll bs).count % 2 ^ 128 = (r.count + 128 * flushCount r bs) % 2 ^ 128 := by
  induction bs generalizing r with
  | nil => simp [flushCount]
  | cons b bs ih =>
    rw [Regs.absorbAll_cons, ih, flushCount]
    by_cases hf : r.off = 128
    · have hcount : (r.absorb b).count = (r.count + 128) % 2 ^ 128 := by
        rw [Regs.absorb_of_full hf]
        exact r.flush_count
      rw [hcount, if_pos hf]
      omega
    · have hcount : (r.absorb b).count = r.count := by
        rw [Regs.absorb_of_room hf]
        rfl
      rw [hcount, if_neg hf, Nat.zero_add]

theorem Regs.count_lt (r : Regs) : r.count < 2 ^ 128 := by
  have h0 := r.t0.isLt
  have h1 := r.t1.isLt
  unfold Regs.count
  omega

/-- Settles O28: the offset stays in range, and the last byte absorbed is pending. -/
theorem updateWithholdsLastBlock : Obligations.UpdateWithholdsLastBlock := by
  intro s t n d hp h1 h8 h
  obtain ⟨hs, -, hregs⟩ := exec_update_next_of_bytes h1 h8 h
  have hoff := Regs.firstUse_off_le ((Regs.inSpec_iff _).1 hs).1
  rw [hregs hp]
  exact ⟨Regs.absorbAll_off_pos (messageBytes_ne_nil h1) hoff, Regs.absorbAll_off_le _ _ hoff⟩

/-- R148: a string of at most a block is shorter than what two flushes and a pending byte need. -/
theorem flushCount_le_one {r : Regs} (h : r.off.toNat ≤ 128) {bs : List Byte} (hlen : bs.length ≤ 128) :
    flushCount r bs ≤ 1 := by
  by_cases hbs : bs = []
  · simp [hbs, flushCount]
  · have hsum := Regs.absorbAll_off_add_flushes bs h
    have hpos := Regs.absorbAll_off_pos hbs h
    omega

/-- R263: bytes that fit are all left in the buffer, and after a flush one more than a block has come in. -/
theorem flushCount_pos_iff {r : Regs} (h : r.off.toNat ≤ 128) {bs : List Byte} (hbs : bs ≠ []) :
    1 ≤ flushCount r bs ↔ 128 < r.off.toNat + bs.length := by
  have hsum := Regs.absorbAll_off_add_flushes bs h
  have hpos := Regs.absorbAll_off_pos hbs h
  have hle := Regs.absorbAll_off_le bs r h
  omega

/-- R130: counter and offset together count the bytes absorbed. -/
theorem Regs.absorbAll_count_add_off (bs : List Byte) {r : Regs} (h : r.off.toNat ≤ 128) :
    ((r.absorbAll bs).count + (r.absorbAll bs).off.toNat) % 2 ^ 128 = (r.count + r.off.toNat + bs.length) % 2 ^ 128 := by
  rw [Nat.add_assoc r.count, ← Regs.absorbAll_off_add_flushes bs h, Nat.add_left_comm, Nat.add_comm,
    Nat.add_mod, Regs.absorbAll_count, ← Nat.add_mod]

/-- R149: from a counter of 0, at most a block of bytes does not make it wrap. -/
theorem Regs.absorbAll_count_add_off_of_zero {bs : List Byte} {r : Regs} (hcount : r.count = 0)
    (hoff : r.off.toNat ≤ 128) (hlen : bs.length ≤ 128) :
    (r.absorbAll bs).count + (r.absorbAll bs).off.toNat = r.off.toNat + bs.length := by
  have hle := flushCount_le_one hoff hlen
  have htotal := r.absorbAll_count bs
  rw [hcount, Nat.zero_add, Nat.mod_eq_of_lt (Regs.count_lt _), Nat.mod_eq_of_lt (by omega)] at htotal
  rw [htotal, Nat.add_comm, Regs.absorbAll_off_add_flushes bs hoff]

/-- R180: at the baseline of INIT nothing is counted, and the key block is pending where there is a key. -/
theorem Regs.firstUse_baseline {r : Regs} (h : r.ph = .ready) :
    r.firstUse.count = 0 ∧ r.firstUse.off.toNat = if r.keylen = 0 then 0 else 128 := by
  have hkey : 0 < r.keylen.toNat ↔ r.keylen ≠ 0 := by bv_omega
  rw [Regs.firstUse_of_ready h]
  refine ⟨by simp [Regs.count], ?_⟩
  simp only [Regs.init_off, hkey, ne_eq, ite_not]
  split <;> rfl

/-- Settles O29: the registers before are those after INIT, or those before the command; from INIT on nothing wraps. -/
theorem counterAndOffsetCountBytes : Obligations.CounterAndOffsetCountBytes := by
  intro s t n d h1 h8 h
  obtain ⟨hs, -, hregs⟩ := exec_update_next_of_bytes h1 h8 h
  have hoff := ((Regs.inSpec_iff _).1 hs).1
  refine ⟨fun hp => ?_, fun hp => ?_⟩
  · obtain ⟨hcount, hfirst⟩ := Regs.firstUse_baseline hp
    rw [hregs (by simp [hp]), Regs.absorbAll_count_add_off_of_zero hcount (Regs.firstUse_off_le hoff) (by simp; omega),
      hfirst, messageBytes_length]
  · rw [hregs (by simp [hp]), Regs.firstUse_of_not_ready (by simp [hp]), Regs.absorbAll_count_add_off _ hoff,
      messageBytes_length]

/-- Settles O50: the evaluations of an UPDATE with bytes are the flushes of its bytes. -/
theorem updateCompressesAtMostOnce : Obligations.UpdateCompressesAtMostOnce := by
  intro r n d hs
  have hoff := Regs.firstUse_off_le ((Regs.inSpec_iff _).1 hs).1
  simp only [evaluations]
  split
  · next hnone => exact ⟨by decide, fun h1 h8 hp => absurd hnone (by simp only [hp, false_or]; omega)⟩
  · next hbytes =>
    have hle := flushCount_le_one hoff (bs := messageBytes d n) (by simp; omega)
    refine ⟨hle, fun h1 _ _ => ?_⟩
    have hpos := flushCount_pos_iff hoff (messageBytes_ne_nil (d := d) h1)
    rw [messageBytes_length] at hpos
    omega

end Sys2Proof.Machine
end

section
/-! PROOFS. FINALIZE: the block it compresses, the digest it latches and the baseline it leaves (O31), also where no message
byte has come in (O32). -/

namespace Sys2Proof.Machine

/-- R160: whether the first use came before or comes now, FINALIZE leaves the baseline of the parameters and the latch. -/
theorem Regs.firstUse_finalized {r : Regs} (hs : r.inSpec = true) (hp : r.ph ≠ .uncfg) :
    r.firstUse.finalized =
      { r.init with ph := .active, dig := r.firstUse.finalized.dig, digv := true } := by
  have hactive := Regs.firstUse_active hs hp
  by_cases hready : r.ph = .ready
  · rw [Regs.firstUse_of_ready hready]
    rfl
  · rw [Regs.firstUse_of_not_ready hready] at hactive ⊢
    rw [← hactive]
    rfl

/-- R142: the first use is INIT as far as the final compression sees. -/
theorem Regs.firstUse_finalH (r : Regs) : r.firstUse.finalH = (if r.ph = .ready then r.init else r).finalH := by
  by_cases hready : r.ph = .ready
  · rw [Regs.firstUse_of_ready hready, if_pos hready]
    rfl
  · rw [Regs.firstUse_of_not_ready hready, if_neg hready]

/-- R161, R162: the final compression, with the padded block described byte by byte. -/
theorem Regs.finalH_of_block {r : Regs} {block : Vector Byte 128}
    (hblock : ∀ p : Fin 128, block[p] = if p.val < r.off.toNat then r.buf[p] else 0) :
    r.finalH = compress r.h block (r.ctrInc r.off).t0 (r.ctrInc r.off).t1 true := by
  have hpad : zeroTail r.buf r.off = block :=
    Vector.ext fun i hi => by simpa [zeroTail] using (hblock ⟨i, hi⟩).symm
  rw [← hpad]
  rfl

/-- R64: byte `8i + j` of the digest is lane `j` of word `i` of the latch. -/
theorem digestByte_eq_byteLane (dig : Vector Word 8) {i j : Fin 8} {k : Fin 64} (h : k.val = 8 * i.val + j.val) :
    digestByte dig k = byteLane dig[i] j.val := by
  have hword : k.val / 8 = i.val := by omega
  have hlane : k.val % 8 = j.val := by omega
  simp only [digestByte, hword, hlane, Fin.getElem_fin]

/-- Settles O31: the registers FINALIZE leaves are the baseline and the latch of the final chaining state. -/
theorem finalizeLatchesDigest : Obligations.FinalizeLatchesDigest := by
  intro s r c block hs hk hp hr hc hblock
  have hfinal : s.regs.firstUse.finalH = compress r.h block c.t0 c.t1 true := by
    rw [Regs.firstUse_finalH, ← hr, hc, Regs.finalH_of_block hblock]
  refine ⟨_, execFinalize_of_configured hs hk hp, ⟨rfl, rfl⟩, ?_⟩
  rw [State.respond_regs]
  refine ⟨Regs.finalized_digv _, fun i j k hkij => ?_, Regs.firstUse_finalized hs hp⟩
  rw [Regs.finalized_dig, Regs.firstUse_outlen, hfinal, digestByte_eq_byteLane _ hkij,
    byteLane_digestWords _ _ _ j.isLt, hkij]

/-- R166, R167: at the baseline the pending bytes, padded with zeros, are the zero-padded key block. -/
theorem Regs.init_padded_byte {r : Regs} {block : Vector Byte 128} (hfits : r.keyFits = true)
    (hkey : ∀ (p : Fin 128) (q : Fin 64), p.val = q.val → q.val < r.keylen.toNat → block[p] = r.key[q])
    (hzero : ∀ p : Fin 128, r.keylen.toNat ≤ p.val → block[p] = 0) (p : Fin 128) :
    block[p] = if p.val < r.init.off.toNat then r.init.buf[p] else 0 := by
  have hlen : r.keylen.toNat ≤ 64 := by simpa [Regs.keyFits] using hfits
  by_cases hp : p.val < r.keylen.toNat
  · have hoff : r.init.off = 128 := if_pos (by omega)
    have hbuf : r.init.buf[p] = r.key[p.val] := r.baselineBuf_of_lt hp (by omega)
    rw [if_pos (by rw [hoff]; exact p.isLt), hbuf]
    exact hkey p ⟨p.val, by omega⟩ rfl hp
  · have hbuf : r.init.buf[p] = 0 := r.baselineBuf_of_ge p.isLt (by omega)
    rw [hbuf, ite_self]
    exact hzero p (by omega)

/-- R161: at the baseline the counter is 0, so counting the pending bytes makes it their number. -/
theorem Regs.init_ctrInc_off (r : Regs) :
    (r.init.ctrInc r.init.off).t0 = (if r.keylen.toNat = 0 then 0 else 128) ∧ (r.init.ctrInc r.init.off).t1 = 0 := by
  by_cases h : r.keylen.toNat = 0
  · have hoff : r.init.off = 0 := if_neg (by omega)
    rw [if_pos h, hoff]
    exact ⟨rfl, rfl⟩
  · have hoff : r.init.off = 128 := if_pos (by omega)
    rw [if_neg h, hoff]
    exact ⟨rfl, rfl⟩

/-- Settles O32: in READY and at the baseline alike, FINALIZE compresses what INIT leaves. -/
theorem finalizeOfEmptyMessage : Obligations.FinalizeOfEmptyMessage := by
  intro s block hs hk hphase hkey hzero
  have hp : s.regs.ph ≠ .uncfg := by
    obtain h | ⟨h, -⟩ := hphase <;> simp [h]
  have hinit : s.regs.firstUse.finalH = s.regs.init.finalH := by
    obtain hready | ⟨hactive, hbase⟩ := hphase
    · rw [Regs.firstUse_finalH, if_pos hready]
    · rw [Regs.firstUse_finalH, if_neg (by simp [hactive]), ← hbase]
  obtain ⟨ht0, ht1⟩ := s.regs.init_ctrInc_off
  refine ⟨_, execFinalize_of_configured hs hk hp, ⟨rfl, rfl⟩, rfl, ?_⟩
  rw [State.respond_regs, Regs.finalized_dig, Regs.firstUse_outlen, hinit,
    Regs.finalH_of_block (Regs.init_padded_byte hk hkey hzero), ht0, ht1]

end Sys2Proof.Machine
end

section
/-! PROOFS. After a FINALIZE the engine is a fresh one but for the digest latch, which no later use reads (O55). -/

namespace Sys2Proof.Machine

/-- The registers with the digest latch replaced. -/
def Regs.withLatch (r : Regs) (dig : Vector Word 8) (digv : Bool) : Regs := { r with dig := dig, digv := digv }

theorem Regs.absorb_withLatch (r : Regs) (dig : Vector Word 8) (digv : Bool) (b : Byte) :
    (r.withLatch dig digv).absorb b = (r.absorb b).withLatch dig digv := by
  by_cases hfull : r.off = 128
  · rw [Regs.absorb_of_full hfull, Regs.absorb_of_full (r := r.withLatch dig digv) hfull]
    rfl
  · rw [Regs.absorb_of_room hfull, Regs.absorb_of_room (r := r.withLatch dig digv) hfull]
    rfl

theorem Regs.absorbAll_withLatch (bs : List Byte) (r : Regs) (dig : Vector Word 8) (digv : Bool) :
    (r.withLatch dig digv).absorbAll bs = (r.absorbAll bs).withLatch dig digv := by
  induction bs generalizing r with
  | nil => rfl
  | cons b bs ih => rw [Regs.absorbAll_cons, Regs.absorb_withLatch, ih, Regs.absorbAll_cons]

/-- R163: FINALIZE overwrites the latch without reading it. -/
theorem Regs.finalized_withLatch (r : Regs) (dig : Vector Word 8) (digv : Bool) :
    (r.withLatch dig digv).finalized = r.finalized := rfl

/-- R256: every command of a run that goes through is answered once. -/
theorem length_of_runCommands {is : List Instr} {s t : State} {rs : List Response}
    (h : runCommands is s = some (t, rs)) : rs.length = is.length := by
  induction is generalizing s rs with
  | nil => cases h; rfl
  | cons i is ih =>
    obtain ⟨s', rs', hexec, hrest, rfl⟩ := runCommands_cons_some h
    obtain ⟨-, r, st, w, rfl⟩ := exec_next hexec
    simp [ih hrest]

/-- Two runs of the same commands that answer OK throughout answer alike. -/
theorem RunsOk.same_responses {is : List Instr} {s s' : State} {r r' : Regs} (h : RunsOk is s r) (h' : RunsOk is s' r') :
    ∃ (a b : State) (rs : List Response), runCommands is s = some (a, rs) ∧ runCommands is s' = some (b, rs) ∧
      a.regs = r ∧ b.regs = r' := by
  obtain ⟨a, ra, hrun, ha, hok⟩ := h
  obtain ⟨b, rb, hrun', hb, hok'⟩ := h'
  have hra := List.eq_replicate_of_mem hok
  have hrb := List.eq_replicate_of_mem hok'
  rw [length_of_runCommands hrun] at hra
  rw [length_of_runCommands hrun'] at hrb
  exact ⟨a, b, ra, hrun, by rw [hrun', hrb, hra], ha, hb⟩

/-- R169: a FINALIZE leaves, but for the latch, what the first use of a fresh engine with the same parameters leaves. -/
theorem Regs.firstUse_finalized_eq_fresh {r fresh : Regs} (hs : r.inSpec = true) (hp : r.ph ≠ .uncfg)
    (hfresh : fresh = { Regs.configured r.outlen r.keylen with
      key := r.key, salt := r.salt, saltp := r.saltp, pers := r.pers, persp := r.persp }) :
    r.firstUse.finalized = fresh.firstUse.withLatch r.firstUse.finalized.dig true := by
  have hready : fresh.ph = .ready := by rw [hfresh]; rfl
  rw [Regs.firstUse_finalized hs hp, Regs.firstUse_of_ready hready, hfresh]
  rfl

/-- Settles O55: both engines absorb the same bytes from registers that differ in the latch alone, and the last FINALIZE
overwrites it. -/
theorem reuseEqualsFreshEngine : Obligations.ReuseEqualsFreshEngine := by
  intro s f t us hp hu hs hk hf hfin
  obtain ⟨-, ⟨huncfg, -⟩ | ⟨-, -, rfl⟩⟩ := execFinalize_next hfin
  · exact absurd huncfg hp
  have hactive := Regs.firstUse_active hs hp
  have hreused := runsOk_message us (s := s.after s.regs.firstUse.finalized .ok 0)
    (Regs.finalized_inSpec (by simp [hactive])) (by simp [hactive])
    (by simpa [Regs.keyFits] using hk) hu
  have hfresh := runsOk_message us (s := f) (by rw [hf]; rfl) (by rw [hf]; simp) (by rw [hf]; exact hk) hu
  obtain ⟨a, b, rs, hrun, hrun', ha, hb⟩ := hreused.same_responses hfresh
  refine ⟨a, b, rs, rs, hrun, hrun', ?_, rfl⟩
  rw [ha, hb, State.respond_regs, Regs.firstUse_of_not_ready (by simp [hactive]),
    Regs.firstUse_finalized_eq_fresh hs hp hf, Regs.absorbAll_withLatch, Regs.finalized_withLatch]

end Sys2Proof.Machine
end

section
/-! PROOFS. The digest latch: what keeps it (O39), and how it is read (O17). -/

namespace Sys2Proof.Machine

/-- R221: a command whose status is an error writes nothing. -/
theorem Regs.Writes.eq_of_error {r r' : Regs} {i : Instr} (h : r.Writes i r') (he : expectedStatus i r ≠ .ok) :
    r' = r := by
  cases h with
  | nothing => rfl
  | config h1 h64 hk => exact absurd (if_pos ⟨h1, h64, hk⟩) he
  | loadKey hp => exact absurd (if_pos hp) he
  | setSalt hp => exact absurd (if_pos hp) he
  | setPersonal hp => exact absurd (if_pos hp) he
  | update hp h1 h8 => exact absurd ((if_neg (by omega)).trans (if_neg hp)) he
  | finalize hp => exact absurd (if_neg hp) he

/-- Settles O39: FINALIZE and CONFIG are the only commands with a write of the latch, and a refused one writes nothing. -/
theorem digestLatchKept : Obligations.DigestLatchKept := by
  intro s t hstep hreset hrefused
  obtain ⟨hr, -⟩ | ⟨-, -, hkept⟩ | ⟨-, x, i, hport, hdecode, hexec⟩ := step_next hstep
  · simp [hreset] at hr
  · rw [hkept]
    exact ⟨rfl, rfl⟩
  · by_cases hi : i.mnemonic ∈ ["FINALIZE", "CONFIG"]
    · have hkept : t.regs = s.regs := (exec_writes hexec).eq_of_error (hrefused x i hport hdecode hi)
      rw [hkept]
      exact ⟨rfl, rfl⟩
    · obtain ⟨-, -, -, -, -, -, hlatch⟩ := commandWriteMatrix s.advance t i hexec
      exact hlatch (by simpa [and_comm] using hi)

/-- R165: without a latched digest READ_DIGEST is out of sequence. -/
theorem execReadDigest_of_empty {i : Fin 8} {s : State} (hs : s.regs.inSpec = true) (hd : s.regs.digv = false) :
    execReadDigest i s = .next (s.after s.regs .sequenceError 0) := by
  unfold execReadDigest
  rw [guarded_of_inSpec hs, if_neg (by simp [hd])]
  rfl

/-- Settles O17, by the two forward rules of READ_DIGEST. -/
theorem readDigestReturnsLatch : Obligations.ReadDigestReturnsLatch := fun s i hs =>
  ⟨fun hd => ⟨_, s.regs.dig[i], execReadDigest_of_valid hs hd, rfl, ⟨rfl, rfl⟩, rfl,
      fun _ _ hk => (digestByte_eq_byteLane _ hk).symm⟩,
    fun hd => execReadDigest_of_empty hs hd⟩

end Sys2Proof.Machine
end

section
/-! PROOFS. Two executions side by side: a relation between registers that the commands pass on from the registers they meet
to the registers they leave, and the same along a run. -/

namespace Sys2Proof.Machine

/-- Where `o` answers, `o'` gives the same answer, and the registers `o` leaves are in the relation `R` to those of `o'`. -/
def Simulates (R : Regs → Regs → Prop) (o o' : Host.Outcome State Fault Refusal) : Prop :=
  ∀ t, o = .next t → ∃ t', o' = .next t' ∧ t'.port = t.port ∧ R t.regs t'.regs

section
variable {R : Regs → Regs → Prop} {s s' : State} {k k' l l' : Host.Outcome State Fault Refusal}

theorem complete_simulates {r r' : Regs} (h : R r r') (w : Word) :
    Simulates R (complete s r w) (complete s' r' w) := by
  rintro _ ⟨⟩
  exact ⟨_, rfl, rfl, h⟩

theorem raise_simulates (h : R s.regs s'.regs) (e : Status) : Simulates R (raise s e) (raise s' e) := by
  rintro _ ⟨⟩
  exact ⟨_, rfl, rfl, h⟩

theorem ite_simulates {c : Prop} [Decidable c] (hk : Simulates R k k') (hl : Simulates R l l') :
    Simulates R (if c then k else l) (if c then k' else l') := by
  split
  · exact hk
  · exact hl

theorem guarded_simulates (hoff : s'.regs.off = s.regs.off) (hph : s'.regs.ph = s.regs.ph) (hk : Simulates R k k') :
    Simulates R (guarded s k) (guarded s' k') := by
  intro t h
  obtain ⟨hs, h⟩ := guarded_next h
  have hs' : s'.regs.inSpec = true := by rwa [Regs.inSpec, hoff, hph]
  rw [guarded_of_inSpec hs']
  exact hk t h

theorem withKeyLength_simulates (hlen : s'.regs.keylen = s.regs.keylen) (hk : Simulates R k k') :
    Simulates R (withKeyLength s k) (withKeyLength s' k') := by
  intro t h
  obtain ⟨hfits, h⟩ := withKeyLength_next h
  have hfits' : s'.regs.keyFits = true := by rwa [Regs.keyFits, hlen]
  rw [withKeyLength_of_keyFits hfits']
  exact hk t h

end

/-- Where every command of a list passes the relation on, so does the list, and the responses are the same. -/
theorem runCommands_simulates {R : Regs → Regs → Prop} {is : List Instr}
    (hexec : ∀ i ∈ is, ∀ s s' : State, R s.regs s'.regs → Simulates R (exec i s) (exec i s')) {s s' t : State}
    {rs : List Response} (hs : R s.regs s'.regs) (h : runCommands is s = some (t, rs)) :
    ∃ t', runCommands is s' = some (t', rs) ∧ R t.regs t'.regs := by
  induction is generalizing s s' rs with
  | nil => cases h; exact ⟨s', rfl, hs⟩
  | cons i is ih =>
    obtain ⟨u, us, hi, hrest, rfl⟩ := runCommands_cons_some h
    obtain ⟨u', hi', hport, hu⟩ := hexec i List.mem_cons_self s s' hs u hi
    obtain ⟨t', hrest', ht⟩ := ih (fun j hj => hexec j (List.mem_cons_of_mem _ hj)) hu hrest
    have hresponse : u'.response = u.response := by rw [State.response, hport, State.response]
    exact ⟨t', by rw [runCommands_cons hi', hrest', hresponse]; rfl, ht⟩

/-- A relation between registers that agree on what the checks of UPDATE and FINALIZE read, and that each operation those
two commands are made of passes on. -/
structure HashingKeeps (R : Regs → Regs → Prop) : Prop where
  off {r r' : Regs} : R r r' → r'.off = r.off
  ph {r r' : Regs} : R r r' → r'.ph = r.ph
  keylen {r r' : Regs} : R r r' → r'.keylen = r.keylen
  init {r r' : Regs} : R r r' → R r.init r'.init
  activate {r r' : Regs} : R r r' → R { r with ph := .active } { r' with ph := .active }
  flush {r r' : Regs} : R r r' → R r.flush r'.flush
  push {r r' : Regs} (b : Byte) : R r r' → R (r.push b) (r'.push b)
  latch {r r' : Regs} : R r r' → R { r.padded with dig := digestWords r.outlen r.finalH, digv := true }
    { r'.padded with dig := digestWords r'.outlen r'.finalH, digv := true }

section
variable {R : Regs → Regs → Prop} (hR : HashingKeeps R) {r r' : Regs} {s s' : State}
include hR

theorem HashingKeeps.firstUse (h : R r r') : R r.firstUse r'.firstUse := by
  have hph := hR.ph h
  by_cases hready : r.ph = .ready
  · rw [Regs.firstUse_of_ready hready, Regs.firstUse_of_ready (hph.trans hready)]
    exact hR.activate (hR.init h)
  · rwa [Regs.firstUse_of_not_ready hready, Regs.firstUse_of_not_ready (by rwa [hph])]

theorem HashingKeeps.absorb (h : R r r') (b : Byte) : R (r.absorb b) (r'.absorb b) := by
  have hoff := hR.off h
  by_cases hfull : r.off = 128
  · rw [Regs.absorb_of_full hfull, Regs.absorb_of_full (hoff.trans hfull)]
    exact hR.push b (hR.flush h)
  · rw [Regs.absorb_of_room hfull, Regs.absorb_of_room (by rwa [hoff])]
    exact hR.push b h

theorem HashingKeeps.absorbAll (h : R r r') (bs : List Byte) : R (r.absorbAll bs) (r'.absorbAll bs) := by
  induction bs generalizing r r' with
  | nil => exact h
  | cons b bs ih => exact ih (hR.absorb h b)

theorem HashingKeeps.finalized (h : R r r') : R r.finalized r'.finalized := hR.init (hR.latch h)

theorem HashingKeeps.exec_update (h : R s.regs s'.regs) (n : Fin 16) (d : Word) :
    Simulates R (exec (.update n d) s) (exec (.update n d) s') := by
  have hbytes {r r' : Regs} (hr : R r r') := complete_simulates (s := s) (s' := s')
    (hR.absorbAll hr (messageBytes d n)) 0
  refine guarded_simulates (hR.off h) (hR.ph h) ?_
  rw [hR.ph h]
  exact ite_simulates (raise_simulates h _) (ite_simulates (raise_simulates h _) (ite_simulates (complete_simulates h _)
    (ite_simulates (withKeyLength_simulates (hR.keylen h) (hbytes (hR.firstUse h))) (hbytes h))))

theorem HashingKeeps.exec_finalize (h : R s.regs s'.regs) : Simulates R (exec .finalize s) (exec .finalize s') := by
  refine guarded_simulates (hR.off h) (hR.ph h) ?_
  rw [hR.ph h]
  exact ite_simulates (raise_simulates h _)
    (withKeyLength_simulates (hR.keylen h) (complete_simulates (hR.finalized (hR.firstUse h)) _))

end

end Sys2Proof.Machine
end

section
/-! PROOFS. The key bytes at positions `>= KEYLEN` are never used (O43). -/

namespace Sys2Proof.Machine

/-- R194: the registers `r` with a key of the same bytes at the positions below `KEYLEN`. -/
inductive Regs.SameUsedKey (r : Regs) : Regs → Prop
  | withKey {key : Vector Byte 64} (h : ∀ p : Fin 64, p.val < r.keylen.toNat → key[p] = r.key[p]) :
    r.SameUsedKey { r with key := key }

theorem Regs.sameUsedKey_iff {r r' : Regs} : r.SameUsedKey r' ↔
    { r' with key := r.key } = r ∧ ∀ p : Fin 64, p.val < r.keylen.toNat → r'.key[p] = r.key[p] := by
  refine ⟨fun ⟨h⟩ => ⟨rfl, h⟩, fun ⟨hrest, hused⟩ => ?_⟩
  have hr' : r' = { r with key := r'.key } := by rw [← hrest]
  rw [hr']
  exact .withKey hused

theorem Regs.SameUsedKey.refl (r : Regs) : r.SameUsedKey r := .withKey fun _ _ => rfl

/-- R180: INIT copies no byte from a position `>= KEYLEN`. -/
theorem Regs.SameUsedKey.baselineBuf {r r' : Regs} (h : r.SameUsedKey r') : r'.baselineBuf = r.baselineBuf := by
  obtain ⟨hused⟩ := h
  refine Vector.ext fun i hi => ?_
  by_cases hlen : i < r.keylen.toNat ∧ i < 64
  · simpa [Regs.baselineBuf, hlen] using hused ⟨i, hlen.2⟩ hlen.1
  · simp [Regs.baselineBuf, hlen]

theorem Regs.SameUsedKey.init {r r' : Regs} (h : r.SameUsedKey r') : r.init.SameUsedKey r'.init := by
  rw [Regs.init, Regs.init, h.baselineBuf]
  obtain ⟨hused⟩ := h
  exact .withKey hused

/-- Beside INIT's copy no operation of UPDATE and FINALIZE reads the key. -/
theorem hashingKeeps_sameUsedKey : HashingKeeps Regs.SameUsedKey where
  off := fun ⟨_⟩ => rfl
  ph := fun ⟨_⟩ => rfl
  keylen := fun ⟨_⟩ => rfl
  init := Regs.SameUsedKey.init
  activate := fun ⟨hused⟩ => .withKey hused
  flush := fun ⟨hused⟩ => .withKey hused
  push := fun _ ⟨hused⟩ => .withKey hused
  latch := fun ⟨hused⟩ => .withKey hused

theorem Regs.SameUsedKey.withKeyWord {r r' : Regs} (h : r.SameUsedKey r') (k : Fin 8) (d : Word) :
    (r.withKeyWord k d).SameUsedKey (r'.withKeyWord k d) := by
  obtain ⟨hused⟩ := h
  refine .withKey fun p hp => ?_
  simp only [Regs.withKeyWord_key, Fin.getElem_fin, getElem_writeKeyWord]
  split
  · rfl
  · exact hused p hp

/-- R194: every command passes the relation on and answers alike. -/
theorem exec_simulates_sameUsedKey (i : Instr) {s s' : State} (h : s.regs.SameUsedKey s'.regs) :
    Simulates Regs.SameUsedKey (exec i s) (exec i s') := by
  have hsame := h
  have hcomplete := complete_simulates (s := s) (s' := s') h
  have hraise := raise_simulates h
  obtain ⟨regs', port', inputs'⟩ := s'
  obtain ⟨hused⟩ := h
  cases i with
  | nop => exact guarded_simulates rfl rfl (hcomplete _)
  | config a b =>
    exact guarded_simulates rfl rfl (ite_simulates (hraise _) (ite_simulates (hraise _)
      (complete_simulates (.refl _) _)))
  | loadKey k d =>
    exact guarded_simulates rfl rfl (ite_simulates (complete_simulates (hsame.withKeyWord k d) _) (hraise _))
  | setSalt k d =>
    exact guarded_simulates rfl rfl (ite_simulates (complete_simulates (.withKey hused) _) (hraise _))
  | setPersonal k d =>
    exact guarded_simulates rfl rfl (ite_simulates (complete_simulates (.withKey hused) _) (hraise _))
  | update n d => exact hashingKeeps_sameUsedKey.exec_update hsame n d
  | finalize => exact hashingKeeps_sameUsedKey.exec_finalize hsame
  | readDigest k => exact guarded_simulates rfl rfl (ite_simulates (hcomplete _) (hraise _))
  | readStatus => exact guarded_simulates rfl rfl (hcomplete _)
  | readCounter k => exact guarded_simulates rfl rfl (hcomplete _)

/-- Settles O43: the two states' registers are in a relation that every command passes on. -/
theorem unusedKeyBytesIgnored : Obligations.UnusedKeyBytesIgnored := by
  intro s s' t i hrest hport hinputs hused h
  obtain ⟨t', h', hport', hregs⟩ := exec_simulates_sameUsedKey i (Regs.sameUsedKey_iff.2 ⟨hrest, hused⟩) t h
  obtain ⟨hrest', hused'⟩ := Regs.sameUsedKey_iff.1 hregs
  obtain ⟨htin, -⟩ := commandWriteMatrix s t i h
  obtain ⟨htin', -⟩ := commandWriteMatrix s' t' i h'
  exact ⟨t', h', hrest', hport', by rw [htin', hinputs, htin], hused'⟩

end Sys2Proof.Machine
end

section
/-! PROOFS. A salt or personalization of zero words gives the digest of none (O44). -/

namespace Sys2Proof.Machine

/-- R193: the registers `r` with a presence flag changed only where the words it stands for are 0. -/
inductive Regs.SameBlocks (r : Regs) : Regs → Prop
  | withFlags {saltp persp : Bool} (hsalt : r.saltp = saltp ∨ r.salt = Vector.replicate 2 0)
    (hpers : r.persp = persp ∨ r.pers = Vector.replicate 2 0) :
    r.SameBlocks { r with saltp := saltp, persp := persp }

/-- XOR with a word of two that are 0 does not depend on whether it happens. -/
theorem ite_xor_eq_of_zero {p p' : Bool} {v : Vector Word 2} (h : p = p' ∨ v = Vector.replicate 2 0) (w : Word) {i : Nat}
    (hi : i < 2) : (if p' then w ^^^ v[i] else w) = if p then w ^^^ v[i] else w := by
  obtain rfl | rfl := h
  · rfl
  · simp

/-- R193: the chaining state INIT builds is the same. -/
theorem Regs.SameBlocks.baselineH {r r' : Regs} (h : r.SameBlocks r') : r'.baselineH = r.baselineH := by
  obtain ⟨hsalt, hpers⟩ := h
  simp only [Regs.baselineH_eq, ite_xor_eq_of_zero hsalt, ite_xor_eq_of_zero hpers]

theorem Regs.SameBlocks.init {r r' : Regs} (h : r.SameBlocks r') : r.init.SameBlocks r'.init := by
  rw [Regs.init, Regs.init, h.baselineH]
  obtain ⟨hsalt, hpers⟩ := h
  exact .withFlags hsalt hpers

/-- Beside INIT no operation of UPDATE and FINALIZE reads the salt, the personalization or their flags. -/
theorem hashingKeeps_sameBlocks : HashingKeeps Regs.SameBlocks where
  off := fun ⟨_, _⟩ => rfl
  ph := fun ⟨_, _⟩ => rfl
  keylen := fun ⟨_, _⟩ => rfl
  init := Regs.SameBlocks.init
  activate := fun ⟨hsalt, hpers⟩ => .withFlags hsalt hpers
  flush := fun ⟨hsalt, hpers⟩ => .withFlags hsalt hpers
  push := fun _ ⟨hsalt, hpers⟩ => .withFlags hsalt hpers
  latch := fun ⟨hsalt, hpers⟩ => .withFlags hsalt hpers

/-- Settles O44: the UPDATEs and the FINALIZE pass on a relation under which the digest latch is the same. -/
theorem zeroSaltGivesSameDigest : Obligations.ZeroSaltGivesSameDigest := by
  intro s s' t t' us rs rs' hrest hsalt hpers hrun hrun'
  have hregs : s'.regs = { s.regs with saltp := s'.regs.saltp, persp := s'.regs.persp } := by rw [← hrest]
  have hstart : s.regs.SameBlocks s'.regs := hregs ▸ .withFlags hsalt hpers
  have hexec : ∀ i ∈ updateCommands us ++ [.finalize], ∀ s s' : State, s.regs.SameBlocks s'.regs →
      Simulates Regs.SameBlocks (exec i s) (exec i s') := by
    intro i hi s s' h
    simp only [updateCommands, List.mem_append, List.mem_map, List.mem_singleton] at hi
    obtain ⟨u, -, rfl⟩ | rfl := hi
    · exact hashingKeeps_sameBlocks.exec_update h u.1 u.2
    · exact hashingKeeps_sameBlocks.exec_finalize h
  obtain ⟨_, hrun'', hend⟩ := runCommands_simulates hexec hstart hrun
  cases hrun'.symm.trans hrun''
  have hdig : t'.regs.dig = t.regs.dig := match t'.regs, hend with | _, ⟨_, _⟩ => rfl
  exact ⟨hdig.symm, rfl⟩

end Sys2Proof.Machine
end

section
/-! PROOFS. The status and the phase after every command (O34). -/

namespace Sys2Proof.Machine

/-- R195: a command that answers does so with the table's status, and leaves the table's phase where that is OK. -/
theorem exec_status {i : Instr} {s t : State} (h : exec i s = .next t) : ∃ r st w,
    t = s.after r st w ∧ expectedStatus i s.regs = st ∧
      r.ph = if st = .ok then expectedPhase i s.regs else s.regs.ph := by
  cases i with
  | nop => obtain ⟨-, ht⟩ := execNop_next h; exact ⟨_, _, _, ht, rfl, rfl⟩
  | config a b =>
    obtain ⟨-, ⟨hrange, ht⟩ | ⟨h1, h64, hk, ht⟩⟩ := execConfig_next h
    · exact ⟨_, _, _, ht, if_neg (by omega), rfl⟩
    · exact ⟨_, _, _, ht, if_pos ⟨h1, h64, hk⟩, rfl⟩
  | loadKey k d =>
    obtain ⟨-, ⟨hp, ht⟩ | ⟨hp, ht⟩⟩ := execLoadKey_next h
    · exact ⟨_, _, _, ht, if_pos hp, rfl⟩
    · exact ⟨_, _, _, ht, if_neg hp, rfl⟩
  | setSalt k d =>
    obtain ⟨-, ⟨hp, ht⟩ | ⟨hp, ht⟩⟩ := execSetSalt_next h
    · exact ⟨_, _, _, ht, if_pos hp, rfl⟩
    · exact ⟨_, _, _, ht, if_neg hp, rfl⟩
  | setPersonal k d =>
    obtain ⟨-, ⟨hp, ht⟩ | ⟨hp, ht⟩⟩ := execSetPersonal_next h
    · exact ⟨_, _, _, ht, if_pos hp, rfl⟩
    · exact ⟨_, _, _, ht, if_neg hp, rfl⟩
  | update n d =>
    obtain ⟨hs, ⟨h9, ht⟩ | ⟨h8, hp, ht⟩ | ⟨h0, hp, ht⟩ | ⟨h1, h8, hp, -, ht⟩⟩ := execUpdate_next h
    · exact ⟨_, _, _, ht, if_pos h9, rfl⟩
    · exact ⟨_, _, _, ht, (if_neg (by omega)).trans (if_pos hp), rfl⟩
    · exact ⟨_, _, _, ht, (if_neg (by omega)).trans (if_neg hp), (if_pos h0).symm⟩
    · exact ⟨_, _, _, ht, (if_neg (by omega)).trans (if_neg hp),
        (Regs.used_inSpec hs hp _).2.trans (if_neg (by omega)).symm⟩
  | finalize =>
    obtain ⟨hs, ⟨hp, ht⟩ | ⟨hp, -, ht⟩⟩ := execFinalize_next h
    · exact ⟨_, _, _, ht, if_pos hp, rfl⟩
    · exact ⟨_, _, _, ht, if_neg hp, Regs.firstUse_active hs hp⟩
  | readDigest k =>
    obtain ⟨-, ⟨hd, ht⟩ | ⟨hd, ht⟩⟩ := execReadDigest_next h
    · exact ⟨_, _, _, ht, if_pos hd, rfl⟩
    · exact ⟨_, _, _, ht, if_neg (by simp [hd]), rfl⟩
  | readStatus => obtain ⟨-, ht⟩ := execReadStatus_next h; exact ⟨_, _, _, ht, rfl, rfl⟩
  | readCounter k => obtain ⟨-, ht⟩ := execReadCounter_next h; exact ⟨_, _, _, ht, rfl, rfl⟩

/-- Settles O34, by the table's status of the command, with each status code as the number R220 gives it. -/
theorem phaseTableHolds : Obligations.PhaseTableHolds := by
  intro s t i h
  obtain ⟨r, st, w, rfl, hst, hph⟩ := exec_status h
  rw [hst]
  exact ⟨w, ⟨by cases st <;> rfl, rfl⟩, hph⟩

end Sys2Proof.Machine
end

section
/-! PROOFS. Where INIT would copy key bytes that do not exist (O41). -/

namespace Sys2Proof.Machine

theorem ne_fault_of_answers {k : Host.Outcome State Fault Refusal} (h : ∃ t, k = .next t) (f : Fault) : k ≠ .fault f := by
  obtain ⟨t, rfl⟩ := h
  nofun

theorem withKeyLength_of_not_keyFits {s : State} (h : s.regs.keyFits = false) (k : Host.Outcome State Fault Refusal) :
    withKeyLength s k = .fault .keyLengthOutOfRange :=
  if_pos (by simpa [Regs.keyFits] using h)

theorem exec_finalize_keyLength_iff {s : State} (hs : s.regs.inSpec = true) (hk : s.regs.keyFits = false) :
    exec .finalize s = .fault .keyLengthOutOfRange ↔ s.regs.ph ≠ .uncfg := by
  rw [exec, execFinalize, guarded_of_inSpec hs, withKeyLength_of_not_keyFits hk]
  split
  · next hp => exact iff_of_false nofun (by simp [hp])
  · next hp => exact iff_of_true rfl hp

theorem exec_update_keyLength_iff {s : State} (hs : s.regs.inSpec = true) (hk : s.regs.keyFits = false) (n : Fin 16)
    (d : Word) :
    exec (.update n d) s = .fault .keyLengthOutOfRange ↔ (1 ≤ n.val ∧ n.val ≤ 8) ∧ s.regs.ph = .ready := by
  rw [exec, execUpdate, guarded_of_inSpec hs, withKeyLength_of_not_keyFits hk]
  split
  · next h9 => exact iff_of_false nofun (by omega)
  split
  · next hp => exact iff_of_false nofun (by simp [hp])
  split
  · next h0 => exact iff_of_false nofun (by omega)
  split
  · next hready => exact iff_of_true rfl ⟨by omega, hready⟩
  · next hready => exact iff_of_false nofun (by simp [hready])

/-- Settles O41: FINALIZE and UPDATE are the only commands that check the key length; the others answer. -/
theorem keyLengthBeyondStorageFaults : Obligations.KeyLengthBeyondStorageFaults := by
  intro s i hs hk
  have hraise := raise_answers s
  have hcomplete := complete_answers s
  have answers {k : Host.Outcome State Fault Refusal} (h : ∃ t, k = .next t) :
      guarded s k ≠ .fault .keyLengthOutOfRange := ne_fault_of_answers (guarded_answers hs h) _
  cases i with
  | update n d => simpa using exec_update_keyLength_iff hs hk n d
  | finalize => simpa using exec_finalize_keyLength_iff hs hk
  | nop => exact iff_of_false (answers (hcomplete _ _)) (by simp)
  | config a b =>
    exact iff_of_false (answers (ite_answers (hraise _) (ite_answers (hraise _) (hcomplete _ _)))) (by simp)
  | loadKey k d => exact iff_of_false (answers (ite_answers (hcomplete _ _) (hraise _))) (by simp)
  | setSalt k d => exact iff_of_false (answers (ite_answers (hcomplete _ _) (hraise _))) (by simp)
  | setPersonal k d => exact iff_of_false (answers (ite_answers (hcomplete _ _) (hraise _))) (by simp)
  | readDigest k => exact iff_of_false (answers (ite_answers (hcomplete _ _) (hraise _))) (by simp)
  | readStatus => exact iff_of_false (answers (hcomplete _ _)) (by simp)
  | readCounter k => exact iff_of_false (answers (hcomplete _ _)) (by simp)

end Sys2Proof.Machine
end

section
/-! PROOFS. INIT (O30). -/

namespace Sys2Proof.Machine

/-- R181: the parameter word as a number. -/
theorem parameterWord_eq_ofNat (outlen keylen : Byte) : parameterWord outlen keylen =
    BitVec.ofNat 64 (0x01010000 ||| keylen.toNat * 2 ^ 8 ||| outlen.toNat) := by
  have hk : keylen.setWidth 64 <<< 8 = BitVec.ofNat 64 (keylen.toNat * 2 ^ 8) := by bv_omega
  have ho : outlen.setWidth 64 = BitVec.ofNat 64 outlen.toNat := by bv_omega
  rw [parameterWord, hk, ho, BitVec.ofNat_or, BitVec.ofNat_or]

/-- Settles O30: the chaining state word by word, the buffer below and from `KEYLEN` on, and the rest as INIT sets or
leaves it. -/
theorem initBuildsBaseline : Obligations.InitBuildsBaseline := by
  intro r _
  have hh := r.baselineH_eq
  rw [parameterWord_eq_ofNat] at hh
  have hword (i : Fin 8) := congrArg (·[i]) hh
  refine ⟨hword 0, hword 1, hword 2, hword 3, hword 4, hword 5, hword 6, hword 7, rfl, rfl, fun p q hpq hq => ?_,
    fun p hp => r.baselineBuf_of_ge p.isLt hp, ?_, rfl⟩
  · simpa [hpq] using r.baselineBuf_of_lt hq q.isLt
  · by_cases h0 : r.keylen.toNat = 0 <;> simp [h0, Nat.pos_iff_ne_zero]

end Sys2Proof.Machine
end

section
/-! PROOFS. The commands that set the parameters and those that only answer (O14, O16, O18, O20, O21, O22, O24). -/

namespace Sys2Proof.Machine

/-- Settles O14: NOP completes with the registers it met. -/
theorem nopOnlyAnswers : Obligations.NopOnlyAnswers := fun _ hs => guarded_of_inSpec hs _

/-- Settles O16, by the forward rule of READ_COUNTER at both indices. -/
theorem readCounterReturnsCounter : Obligations.ReadCounterReturnsCounter := fun _ hs =>
  ⟨_, _, _, _, execReadCounter_of_inSpec hs, rfl, ⟨rfl, rfl⟩, rfl, execReadCounter_of_inSpec hs, rfl, ⟨rfl, rfl⟩, rfl, rfl⟩

/-- Settles O18, by the forward rule of CONFIG: all but the lengths and the phase is as after reset. -/
theorem configStartsFreshEngine : Obligations.ConfigStartsFreshEngine := by
  intro s a b hs h1 h64 hb
  refine ⟨_, execConfig_of_range hs h1 h64 hb, ⟨rfl, rfl⟩, ?_⟩
  simp

/-- Settles O20: key byte `p` belongs to word `p / 8`. -/
theorem loadKeyWritesEightBytes : Obligations.LoadKeyWritesEightBytes := by
  intro s k d hs hp
  have hbyte (p : Fin 64) : (s.regs.withKeyWord k d).key[p]
      = if p.val / 8 = k.val then byteLane d (p.val % 8) else s.regs.key[p] :=
    getElem_writeKeyWord s.regs.key k d p.val p.isLt
  refine ⟨_, execLoadKey_of_ready hs hp, ⟨rfl, rfl⟩, rfl, fun j p hpk => ?_, fun p hout => ?_⟩
  · have hlane : p.val % 8 = j.val := by omega
    rw [State.respond_regs, hbyte, if_pos (by omega), hlane]
  · rw [State.respond_regs, hbyte, if_neg (by omega)]

/-- R61, R64: one half of a salt or personalization written, the word spelled by its lanes. -/
theorem getElem_set_half (v : Vector Word 2) (i j : Fin 2) (d : Word) :
    (v.set i d)[j] = if j = i then le64 (fun l => byteLane d l.val) else v[j] := by
  rw [le64_byteLane, Fin.getElem_fin, Vector.getElem_set]
  simp only [Fin.ext_iff, eq_comm, Fin.getElem_fin]

/-- Settles O21, by the forward rule of SET_SALT. -/
theorem setSaltWritesHalf : Obligations.SetSaltWritesHalf := fun s i d hs hp =>
  ⟨_, execSetSalt_of_ready hs hp, ⟨rfl, rfl⟩, rfl, rfl, fun j => getElem_set_half s.regs.salt i j d⟩

/-- Settles O22, by the forward rule of SET_PERSONAL. -/
theorem setPersonalWritesHalf : Obligations.SetPersonalWritesHalf := fun s i d hs hp =>
  ⟨_, execSetPersonal_of_ready hs hp, ⟨rfl, rfl⟩, rfl, rfl, fun j => getElem_set_half s.regs.pers i j d⟩

/-- R189: what only READY allows is out of sequence elsewhere. -/
theorem guarded_ready_of_locked {s : State} (hs : s.regs.inSpec = true) (hp : s.regs.ph ≠ .ready)
    (k : Host.Outcome State Fault Refusal) :
    guarded s (if s.regs.ph = .ready then k else raise s .sequenceError)
      = .next { s with port := .responding { status := 0x02, rdata := 0 } } := by
  rw [guarded_of_inSpec hs, if_neg hp, raise_next]
  rfl

/-- Settles O24: the three commands check for READY before anything else of their own. -/
theorem parametersLockedOutsideReady : Obligations.ParametersLockedOutsideReady := fun _ _ _ _ hs hp =>
  ⟨guarded_ready_of_locked hs hp _, guarded_ready_of_locked hs hp _, guarded_ready_of_locked hs hp _⟩

end Sys2Proof.Machine
end

section
/-! PROOFS. The words the decode refuses, field by field. -/

namespace Sys2Proof

theorem decodePlain_error_iff {a b : Byte} {i : Instr} :
    (∃ e, decodePlain a b i = .error e) ↔ a.toNat ≠ 0 ∨ b.toNat ≠ 0 := by
  unfold decodePlain
  split
  · next h => exact iff_of_false nofun (by simp [h])
  · next h => exact iff_of_true ⟨_, rfl⟩ (by bv_omega)

theorem decodeIndexed_error_iff {bound : Nat} {a b : Byte} {mk : Fin bound → Instr} :
    (∃ e, decodeIndexed bound a b mk = .error e) ↔ bound ≤ a.toNat ∨ b.toNat ≠ 0 := by
  unfold decodeIndexed
  split
  · next ha =>
    split
    · next hb => exact iff_of_false nofun (by simp [ha, hb])
    · next hb => exact iff_of_true ⟨_, rfl⟩ (by bv_omega)
  · next ha => exact iff_of_true ⟨_, rfl⟩ (.inl (Nat.not_lt.1 ha))

theorem decodeUpdate_error_iff {a b : Byte} {d : Word} :
    (∃ e, decodeUpdate a b d = .error e) ↔ 8 < a.toNat ∨ b.toNat ≠ 0 := by
  unfold decodeUpdate
  split
  · next ha =>
    split
    · next hb => exact iff_of_false nofun (by simp [ha, hb])
    · next hb => exact iff_of_true ⟨_, rfl⟩ (by bv_omega)
  · next ha => exact iff_of_true ⟨_, rfl⟩ (.inl (Nat.not_le.1 ha))

/-- R224's list, on the four fields as numbers. -/
def IllegalFields (opc a b rsv : Nat) : Prop :=
  rsv ≠ 0 ∨ 0x0A ≤ opc ∨
    ((opc = 0 ∨ opc = 6 ∨ opc = 8) ∧ (a ≠ 0 ∨ b ≠ 0)) ∨
    ((opc = 2 ∨ opc = 7) ∧ (7 < a ∨ b ≠ 0)) ∨
    ((opc = 3 ∨ opc = 4 ∨ opc = 9) ∧ (1 < a ∨ b ≠ 0)) ∨
    (opc = 5 ∧ (8 < a ∨ b ≠ 0))

/-- R82, R224: the words the decode refuses are those of the list. -/
theorem decode_error_iff {t : Transfer} : (∃ e, decode t = .error e) ↔
    IllegalFields (fieldOpc t.cmd).toNat (fieldA t.cmd).toNat (fieldB t.cmd).toNat (fieldRsv t.cmd).toNat := by
  unfold decode IllegalFields
  dsimp only
  split
  · next hzero =>
    have hrsv : (fieldRsv t.cmd).toNat = 0 := by rw [hzero]; rfl
    split
    · rw [decodePlain_error_iff]; omega
    · exact iff_of_false nofun (by omega)
    · rw [decodeIndexed_error_iff]; omega
    · rw [decodeIndexed_error_iff]; omega
    · rw [decodeIndexed_error_iff]; omega
    · rw [decodeUpdate_error_iff]; omega
    · rw [decodePlain_error_iff]; omega
    · rw [decodeIndexed_error_iff]; omega
    · rw [decodePlain_error_iff]; omega
    · rw [decodeIndexed_error_iff]; omega
    · exact iff_of_true ⟨_, rfl⟩ (.inr (.inl (by grind)))
  · next hrsv => exact iff_of_true ⟨_, rfl⟩ (.inl fun h => hrsv (BitVec.eq_of_toNat_eq h))

end Sys2Proof
end

section
/-! PROOFS. The four status codes: which command answers which (O4, O19, O23, O33), and that an error leaves no trace (O35)
and no answer shows a secret (O42). -/

namespace Sys2Proof.Machine

/-! The answer of a command, and its status read off the phase table -/

/-- R195, R91: the answer of a command: the table's status, and the value the command names where that is OK. -/
def expectedResponse (i : Instr) (r : Regs) : Response :=
  ⟨(expectedStatus i r).code, if expectedStatus i r = .ok then (readValue r i).getD 0 else 0⟩

theorem exec_port {i : Instr} {s t : State} (h : exec i s = .next t) :
    t.port = .responding (expectedResponse i s.regs) := by
  obtain ⟨st', hport⟩ := exec_response h
  obtain ⟨r, st, w, rfl, hst, -⟩ := exec_status h
  obtain ⟨hcode, hw⟩ := Response.mk.inj (Port.responding.inj hport)
  obtain rfl := Status.code_injective hcode
  rw [State.respond_port, expectedResponse, hst, hw]

theorem answer_status_iff {i : Instr} {s t : State} {r : Response} (h : exec i s = .next t)
    (hr : t.port = .responding r) (st : Status) : r.status = st.code ↔ expectedStatus i s.regs = st := by
  obtain rfl := Port.responding.inj (hr.symm.trans (exec_port h))
  exact ⟨fun hcode => Status.code_injective hcode, congrArg Status.code⟩

/-- R222, on the phase table. -/
theorem expectedStatus_eq_configError_iff {i : Instr} {r : Regs} : expectedStatus i r = .configError ↔
    ∃ a b : Byte, i = .config a b ∧ (a.toNat < 1 ∨ 64 < a.toNat ∨ 64 < b.toNat) := by
  cases i with
  | config a b =>
    have hrange : expectedStatus (.config a b) r = .configError ↔ a.toNat < 1 ∨ 64 < a.toNat ∨ 64 < b.toNat := by
      rw [expectedStatus]
      split
      · exact iff_of_false nofun (by omega)
      · exact iff_of_true rfl (by omega)
    simpa using hrange
  | update n d =>
    refine iff_of_false ?_ (by simp)
    rw [expectedStatus]
    split
    · nofun
    · split <;> nofun
  | nop | readStatus | readCounter => exact iff_of_false nofun (by simp)
  | loadKey | setSalt | setPersonal | finalize | readDigest =>
    exact iff_of_false (by rw [expectedStatus]; split <;> nofun) (by simp)

/-- R223, on the phase table. -/
theorem expectedStatus_eq_sequenceError_iff {i : Instr} {r : Regs} (hi : i.wellFormed = true) :
    expectedStatus i r = .sequenceError ↔
      ((∃ n d, i = .update n d) ∨ i = .finalize) ∧ r.ph = .uncfg ∨
      ((∃ k d, i = .loadKey k d) ∨ (∃ k d, i = .setSalt k d) ∨ (∃ k d, i = .setPersonal k d)) ∧ r.ph ≠ .ready ∨
      (∃ k, i = .readDigest k) ∧ r.digv = false := by
  cases i with
  | update n d =>
    have h8 : n.val ≤ 8 := of_decide_eq_true hi
    simp [expectedStatus, Nat.not_lt.2 h8]
  | loadKey | setSalt | setPersonal | finalize | readDigest => simp [expectedStatus]
  | config a b => exact iff_of_false (by rw [expectedStatus]; split <;> nofun) (by simp)
  | nop | readStatus | readCounter => exact iff_of_false nofun (by simp)

/-- R224, R226: what an encoder can write is no illegal word, in any phase. -/
theorem expectedStatus_ne_illegalCommand {i : Instr} {r : Regs} (hi : i.wellFormed = true) :
    expectedStatus i r ≠ .illegalCommand := by
  cases i with
  | update n d =>
    have h8 : n.val ≤ 8 := of_decide_eq_true hi
    rw [expectedStatus, if_neg (by omega)]
    split <;> nofun
  | nop | readStatus | readCounter => nofun
  | config | loadKey | setSalt | setPersonal | finalize | readDigest => rw [expectedStatus]; split <;> nofun

/-- R184, R222: CONFIG forward, with a length out of range. -/
theorem execConfig_of_out_of_range {a b : Byte} {s : State} (hs : s.regs.inSpec = true)
    (h : a.toNat < 1 ∨ 64 < a.toNat ∨ 64 < b.toNat) : execConfig a b s = raise s .configError := by
  unfold execConfig
  rw [guarded_of_inSpec hs]
  split
  · rfl
  · rw [if_pos (by omega)]

/-- Settles O19: the table's CONFIG_ERROR, and the forward rule of CONFIG with a length out of range. -/
theorem configErrorExactly : Obligations.ConfigErrorExactly :=
  ⟨fun _ _ _ _ h hr => (answer_status_iff h hr .configError).trans expectedStatus_eq_configError_iff,
    fun _ _ _ hs h => execConfig_of_out_of_range hs h⟩

/-- Settles O23: the table's SEQUENCE_ERROR. -/
theorem sequenceErrorExactly : Obligations.SequenceErrorExactly := fun _ _ _ _ hi h hr =>
  (answer_status_iff h hr .sequenceError).trans (expectedStatus_eq_sequenceError_iff hi)

/-- Settles O33, by the forward rules of UPDATE, without and with bytes, and of FINALIZE. -/
theorem configuredCommandsAnswerOk : Obligations.ConfiguredCommandsAnswerOk := by
  rintro s i hs hk hp hi (⟨n, d, rfl⟩ | rfl)
  · by_cases h0 : n.val = 0
    · exact ⟨_, execUpdate_of_zero hs hp h0, rfl, rfl⟩
    · exact ⟨_, execUpdate_of_bytes hs hp (fun _ => hk) (by omega) (of_decide_eq_true hi), rfl, rfl⟩
  · exact ⟨_, execFinalize_of_configured hs hk hp, rfl, rfl⟩

/-! Transfers: the illegal words among them -/

/-- R88: a transfer runs the command it decodes to, or is an illegal word and only answers so. -/
theorem runTransfer_next {x : Transfer} {s t : State} (h : runTransfer x s = .next t) :
    (∃ i, decode x = .ok i ∧ exec i s = .next t) ∨
      ((∃ e, decode x = .error e) ∧ t = s.after s.regs .illegalCommand 0) := by
  unfold runTransfer at h
  split at h
  · next i hi => exact .inl ⟨i, hi, h⟩
  · next e he => exact .inr ⟨⟨e, he⟩, (execIllegal_next h).2⟩

/-- Settles O35: a command whose status is an error writes nothing and names no value, nor does an illegal word. -/
theorem errorsChangeNothing : Obligations.ErrorsChangeNothing := by
  intro s t x r h hr herror
  obtain ⟨i, -, hexec⟩ | ⟨-, rfl⟩ := runTransfer_next h
  · have hst : expectedStatus i s.regs ≠ .ok := fun hok => herror ((answer_status_iff hexec hr .ok).2 hok)
    obtain rfl := Port.responding.inj (hr.symm.trans (exec_port hexec))
    exact ⟨(exec_writes hexec).eq_of_error hst, if_neg hst⟩
  · cases hr
    exact ⟨rfl, rfl⟩

/-- R82: where the state is one the spec defines, ILLEGAL_COMMAND is answered exactly where the decode refuses the word. -/
theorem runTransfer_illegal_iff {s : State} (hs : s.regs.inSpec = true) {x : Transfer} :
    (∃ (u : State) (r : Response), runTransfer x s = .next u ∧ u.port = .responding r ∧ r.status = 0x03) ↔
      ∃ e, decode x = .error e := by
  constructor
  · rintro ⟨u, r, hrun, hr, hst⟩
    obtain ⟨i, hi, hexec⟩ | ⟨he, -⟩ := runTransfer_next hrun
    · obtain ⟨hwf, -⟩ := encode_of_decode hi
      exact absurd ((answer_status_iff hexec hr .illegalCommand).1 hst) (expectedStatus_ne_illegalCommand hwf)
    · exact he
  · rintro ⟨e, he⟩
    refine ⟨s.respond .illegalCommand 0, _, ?_, rfl, rfl⟩
    simp only [runTransfer, he]
    exact guarded_of_inSpec hs _

/-- Settles O4: ILLEGAL_COMMAND is answered where the decode refuses the word, and it refuses the words of the list. -/
theorem illegalWordsExactly : Obligations.IllegalWordsExactly := by
  intro s t hs
  have hfields := decode_error_iff (t := t)
  rw [fieldOpc_toNat, fieldA_toNat, fieldB_toNat, fieldRsv_toNat] at hfields
  exact (runTransfer_illegal_iff hs).trans hfields

/-! Answers and secrets -/

/-- R235: the answer of a command is a function of the observable part of the registers. -/
theorem expectedResponse_of_observable {r r' : Regs} (h : r.observable = r'.observable) (i : Instr) :
    expectedResponse i r = expectedResponse i r' := by
  obtain ⟨ht0, ht1, hoff, hout, hkey, hph, hsaltp, hpersp, hdig, hdigv⟩ := Observable.mk.inj h
  have hword : statusWord r = statusWord r' := by simp only [statusWord, hoff, hout, hkey, hph, hsaltp, hpersp, hdigv]
  have hstatus : expectedStatus i r = expectedStatus i r' := by cases i <;> simp only [expectedStatus, hph, hdigv]
  have hvalue : readValue r i = readValue r' i := by cases i <;> simp only [readValue, hword, hdig, ht0, ht1]
  rw [expectedResponse, expectedResponse, hstatus, hvalue]

/-- Settles O42: both answers are the one that the observable part of the registers gives. -/
theorem responsesHideSecrets : Obligations.ResponsesHideSecrets := by
  intro s s' t t' i hobs h h'
  simp only [State.response, exec_port h, exec_port h', expectedResponse_of_observable hobs i]

end Sys2Proof.Machine
end

section
/-! PROOFS. Reset (O11), the handshake of the port (O12), and the three steps of an accepted command (O13). -/

namespace Sys2Proof.Machine

/-! One equation for each kind of step; the step of a command in execution is `step_of_executing` -/

/-- R250, R251: with `RESET` asserted only the outside world's later inputs are left of the state. -/
theorem step_of_reset {s : State} (hr : s.sample.reset = true) :
    step s = .next { State.reset with inputs := s.inputs.tail } := by
  simp [step, hr, takeReset]

/-- R255: where the handshake takes the port with the wires `x`: an offered command is accepted, a pending response is
taken when the host is ready for it, and a command in execution waits. -/
def PortInput.handshake (x : PortInput) : Port → Port
  | .idle => x.command.elim .idle .executing
  | .executing t => .executing t
  | .responding r => if x.rspReady then .idle else .responding r

@[simp] theorem PortInput.handshake_idle (x : PortInput) : x.handshake .idle = x.command.elim .idle .executing := rfl
@[simp] theorem PortInput.handshake_responding (x : PortInput) (r : Response) :
    x.handshake (.responding r) = if x.rspReady then .idle else .responding r := rfl

/-- R255: with no reset and no command in execution, a step is the handshake and holds the registers. -/
theorem step_of_handshake {s : State} (hr : s.sample.reset = false) (hs : s.regs.inSpec = true)
    (hp : ∀ x, s.port ≠ .executing x) :
    step s = .next { s with port := s.sample.handshake s.port, inputs := s.inputs.tail } := by
  have hadv : s.advance.regs.inSpec = true := hs
  unfold step
  cases hport : s.port with
  | executing x => exact absurd hport (hp x)
  | idle =>
    simp only [hr, Bool.false_eq_true, if_false, acceptCommand, guarded_of_inSpec hadv]
    cases hc : s.sample.command <;> simp [State.advance, hport, hc]
  | responding r =>
    simp only [hr, Bool.false_eq_true, if_false, offerResponse, guarded_of_inSpec hadv]
    cases hready : s.sample.rspReady <;> simp [State.advance, hport, hready]

/-- Settles O11: the state a reset leaves is written out in `State.reset`. -/
theorem resetWinsOverEverything : Obligations.ResetWinsOverEverything := by
  intro s hr
  exact ⟨_, step_of_reset hr, by simp⟩

/-! The handshake -/

theorem State.cmdReady_iff {s : State} : s.cmdReady = true ↔ s.port = .idle := by simp [State.cmdReady]

theorem State.rspValid_iff {s : State} : s.rspValid = true ↔ ∃ r, s.port = .responding r := by
  cases h : s.port <;> simp [State.rspValid, State.response, h]

/-- Settles O12: in the handshake's step, each clause is one case of `PortInput.handshake`. -/
theorem portHandshake : Obligations.PortHandshake := by
  intro s hr hs
  simp only [State.cmdReady_iff, State.rspValid_iff]
  refine ⟨fun hopen => ⟨_, step_of_handshake hr hs ?_, rfl, rfl, ?_, ?_, ?_, ?_⟩, fun hidle => ?_, rfl, rfl⟩
  · intro x hx
    simp [hx] at hopen
  · intro c hidle hc
    simp [hidle, hc]
  · intro hidle hc
    simp [hidle, hc]
  · rintro ⟨r, hp⟩ hready
    simp [hp, hready]
  · rintro ⟨r, hp⟩ hready
    simp [hp, hready]
  · simp [State.rspValid, State.response, hidle]

/-! From the offer of a command to the taking of its response -/

/-- R41: no command leaves the states the spec defines. -/
theorem Regs.Writes.inSpec {r r' : Regs} {i : Instr} (h : r.Writes i r') (hr : r.inSpec = true) : r'.inSpec = true := by
  cases h with
  | nothing => exact hr
  | config => rfl
  | loadKey => exact hr
  | setSalt => exact hr
  | setPersonal => exact hr
  | update hp => exact (Regs.used_inSpec hr hp _).1
  | finalize hp => exact Regs.finalized_inSpec (by simp [Regs.firstUse_active hr hp])

/-- No command reads the port. -/
theorem exec_withPort (i : Instr) (s : State) (p : Port) : exec i { s with port := p } = exec i s := by
  cases i <;> rfl

/-- A run goes on from the state its first step leaves. -/
theorem run_succ_of_step {M : Host.Core} {s s' : M.State} (h : M.step s = .next s') (k : Nat) :
    M.run (k + 1) s = M.run k s' := by
  rw [Host.Core.run, h]

/-- Settles O13: the handshake accepts the command, the next step executes it, and the handshake takes its response. -/
theorem oneResponsePerCommand : Obligations.OneResponsePerCommand := by
  rintro ⟨regs, _, _⟩ t i x0 x1 x2 rest rfl rfl hi hoffer hr0 hr1 hr2 hready hexec
  obtain ⟨hs, r, st, w, rfl⟩ := exec_next hexec
  have hinSpec : r.inSpec = true := (exec_writes hexec).inSpec hs
  have haccept : step ⟨regs, .idle, x0 :: x1 :: x2 :: rest⟩ = .next ⟨regs, .executing (encode i), x1 :: x2 :: rest⟩ :=
    (step_of_handshake (s := ⟨regs, .idle, x0 :: _⟩) hr0 hs nofun).trans
      (by simp [State.sample, hoffer])
  have hexecute : step ⟨regs, .executing (encode i), x1 :: x2 :: rest⟩ = .next _ :=
    (step_of_executing (s := ⟨regs, _, x1 :: _⟩) rfl hr1 (decode_encode hi)).trans ((exec_withPort i _ _).trans hexec)
  have htake : step (State.after ⟨regs, .idle, x2 :: rest⟩ r st w) = .next ⟨r, .idle, rest⟩ :=
    (step_of_handshake (s := ⟨r, .responding _, x2 :: _⟩) hr2 hinSpec nofun).trans
      (by simp [State.sample, hready])
  have hanswered (k : Nat) :=
    (run_succ_of_step (M := core) haccept (k + 1)).trans (run_succ_of_step (M := core) hexecute k)
  exact ⟨hanswered 0, ⟨_, rfl⟩, (hanswered 1).trans (run_succ_of_step (M := core) htake 0)⟩

end Sys2Proof.Machine
end
